-- ==== Sys2Proof/Word.lean ====
section
/-! DEFINITION. The word type of the block: every message, mask, data and response unit is a byte (00_scope.md R11). -/

namespace Sys2Proof

/-- A byte `v[7:0]`; bit 0 is the least significant (00_scope.md R11, D24). Every value is unsigned. -/
abbrev Byte := BitVec 8

end Sys2Proof
end

