-- ==== Sys2Proof/Syntax.lean ====
section
/-! DEFINITION. The instructions: the closed set of 12 commands of 30_encoding.md R74. -/

namespace Sys2Proof

/-- One constructor per row of the opcode table (30_encoding.md R74). The argument of a CFG or OUT command is
byte 1, an unsigned 8-bit immediate (R73), every value of which is legal (R77). -/
inductive Instr where
  /-- `CFG.A imm8`, opcode 0x00 (41_decoder.md R135). -/
  | cfgA (arg : Byte)
  /-- `CFG.B imm8`, opcode 0x01 (R136). -/
  | cfgB (arg : Byte)
  /-- `SEL.DA`, opcode 0x12 (R137). -/
  | selDA
  /-- `SEL.DB`, opcode 0x13 (R138). -/
  | selDB
  /-- `OUT.A imm8`, opcode 0x14 (R140). -/
  | outA (arg : Byte)
  /-- `OUT.B imm8`, opcode 0x15 (R141). -/
  | outB (arg : Byte)
  /-- `SEL.AN0`, opcode 0x20 (R142). -/
  | selAN0
  /-- `SEL.AN1`, opcode 0x21 (R143). -/
  | selAN1
  /-- `SEL.AN2`, opcode 0x22 (R144). -/
  | selAN2
  /-- `SEL.AN3`, opcode 0x23 (R145). -/
  | selAN3
  /-- `SEL.AN4`, opcode 0x26 (R146). -/
  | selAN4
  /-- `SEL.AN5`, opcode 0x27 (R147). -/
  | selAN5
deriving DecidableEq, Repr

end Sys2Proof
end

