-- ==== Sys2Proof/Decode.lean ====
section
/-! DEFINITION. The decoder of inbound messages, total on every byte list and rejecting by name (30_encoding.md
R70 to R78; 41_decoder.md R130 to R134), and after it the encoder and the opcode table's own numbering. -/

namespace Sys2Proof

/-- The five results of decoding byte 0 (30_encoding.md R75). -/
inductive OpClass where
  | configureBank (bank : Fin 2)
  | setOutput (bank : Fin 2)
  | selectDigitalRead (bank : Fin 2)
  | selectAnalogRead (channel : Fin 6)
  | unknown
deriving DecidableEq, Repr

/-- Why a message is turned away, with the information its error records (60_exceptions.md R200). -/
inductive Reject where
  /-- The length is not 1 or 2 (41_decoder.md R131). -/
  | invalidMessageLength (count : Nat)
  /-- Byte 0 is not in the opcode table (R132). -/
  | unknownOpcode (op : Byte)
  /-- An argument opcode has no second byte (R133). -/
  | truncatedArgument (op : Byte)
deriving DecidableEq, Repr

/-- What decoding a message gives: a command or a rejection, and the bytes not consumed, which are discarded when
the event ends (41_decoder.md R134). -/
inductive Decoded where
  | command (i : Instr) (unconsumed : List Byte)
  | rejected (r : Reject) (unconsumed : List Byte)
deriving DecidableEq, Repr

/-- Byte 0 to its class (30_encoding.md R75). -/
def classify (op : Byte) : OpClass :=
  match op with
  | 0x00#8 => .configureBank 0
  | 0x01#8 => .configureBank 1
  | 0x12#8 => .selectDigitalRead 0
  | 0x13#8 => .selectDigitalRead 1
  | 0x14#8 => .setOutput 0
  | 0x15#8 => .setOutput 1
  | 0x20#8 => .selectAnalogRead 0
  | 0x21#8 => .selectAnalogRead 1
  | 0x22#8 => .selectAnalogRead 2
  | 0x23#8 => .selectAnalogRead 3
  | 0x26#8 => .selectAnalogRead 4
  | 0x27#8 => .selectAnalogRead 5
  | _ => .unknown

/-- The class of a command (30_encoding.md R75). -/
def classOf : Instr → OpClass
  | .cfgA _ => .configureBank 0
  | .cfgB _ => .configureBank 1
  | .selDA => .selectDigitalRead 0
  | .selDB => .selectDigitalRead 1
  | .outA _ => .setOutput 0
  | .outB _ => .setOutput 1
  | .selAN0 => .selectAnalogRead 0
  | .selAN1 => .selectAnalogRead 1
  | .selAN2 => .selectAnalogRead 2
  | .selAN3 => .selectAnalogRead 3
  | .selAN4 => .selectAnalogRead 4
  | .selAN5 => .selectAnalogRead 5

/-- "Requires 2nd byte" of 30_encoding.md R74. -/
def requiresArg (op : Byte) : Bool :=
  match op with
  | 0x00#8 | 0x01#8 | 0x14#8 | 0x15#8 => true
  | _ => false

/-- The argument opcodes of 30_encoding.md R74, format W2, applied to byte 1. -/
def argCommand? (op arg : Byte) : Option Instr :=
  match op with
  | 0x00#8 => some (.cfgA arg)
  | 0x01#8 => some (.cfgB arg)
  | 0x14#8 => some (.outA arg)
  | 0x15#8 => some (.outB arg)
  | _ => none

/-- The no-argument opcodes of 30_encoding.md R74, format W1. -/
def selectCommand? (op : Byte) : Option Instr :=
  match op with
  | 0x12#8 => some .selDA
  | 0x13#8 => some .selDB
  | 0x20#8 => some .selAN0
  | 0x21#8 => some .selAN1
  | 0x22#8 => some .selAN2
  | 0x23#8 => some .selAN3
  | 0x26#8 => some .selAN4
  | 0x27#8 => some .selAN5
  | _ => none

/-- A command if the table has one, else `UnknownOpcode(op)` (41_decoder.md R132). -/
def commandOrUnknown (op : Byte) (found : Option Instr) (unconsumed : List Byte) : Decoded :=
  match found with
  | some i => .command i unconsumed
  | none => .rejected (.unknownOpcode op) unconsumed

/-- `decode` on a message whose length has passed: byte 0 is read, then, if its opcode needs one, byte 1
(41_decoder.md R132, R133). -/
def decodeOpcode (op : Byte) (avail : List Byte) : Decoded :=
  if requiresArg op then
    match avail with
    | [] => .rejected (.truncatedArgument op) []
    | arg :: unconsumed => commandOrUnknown op (argCommand? op arg) unconsumed
  else
    commandOrUnknown op (selectCommand? op) avail

/-- The decoder, in the order of 30_encoding.md R71: the length, the opcode, the argument. A bad length consumes
every byte (41_decoder.md R131). -/
def decode (message : List Byte) : Decoded :=
  match message with
  | [op] => decodeOpcode op []
  | [op, b1] => decodeOpcode op [b1]
  | other => .rejected (.invalidMessageLength other.length) []

/-- Byte 0 of each command (30_encoding.md R74). -/
def opcodeOf : Instr → Byte
  | .cfgA _ => 0x00#8
  | .cfgB _ => 0x01#8
  | .selDA => 0x12#8
  | .selDB => 0x13#8
  | .outA _ => 0x14#8
  | .outB _ => 0x15#8
  | .selAN0 => 0x20#8
  | .selAN1 => 0x21#8
  | .selAN2 => 0x22#8
  | .selAN3 => 0x23#8
  | .selAN4 => 0x26#8
  | .selAN5 => 0x27#8

/-- Byte 1 of each command that has one (30_encoding.md R73). -/
def argBytesOf : Instr → List Byte
  | .cfgA arg | .cfgB arg | .outA arg | .outB arg => [arg]
  | .selDA | .selDB | .selAN0 | .selAN1 | .selAN2 | .selAN3 | .selAN4 | .selAN5 => []

/-- The encoder: the well-formed message of a command, format W1 or W2 (30_encoding.md R70, R80). -/
def encode (i : Instr) : List Byte := opcodeOf i :: argBytesOf i

/-- Byte `k` of a number whose byte 0 is its least significant, the opcode table's numbering. -/
def tableByte (w k : Nat) : Byte := BitVec.ofNat 8 (w / 2 ^ (8 * k))

/-- The message of a table row's bits `w`: the row's bytes in bus order, and, where the row is given as byte 0
alone and its opcode needs an argument, an argument byte of zero (log 10). -/
def tableMessage (nbits w : Nat) : List Byte :=
  let bytes := (List.range ((nbits + 7) / 8)).map (tableByte (w % 2 ^ nbits))
  match bytes with
  | [op] => if requiresArg op then [op, 0x00#8] else [op]
  | other => other

/-- The instruction the decoder reads from an opcode-table row's bits (log 10). -/
def decodeTableWord (nbits w : Nat) : Option Instr :=
  match decode (tableMessage nbits w) with
  | .command i _ => some i
  | .rejected _ _ => none

end Sys2Proof
end

