-- ==== Sys2Proof/Config.lean ====
section
/-! DEFINITION. The implementation parameters of 00_scope.md R8, and the free values of the pin and fill draws. -/

namespace Sys2Proof

/-- The number of bit positions an operation scans for Bank B: 4 or 8 (00_scope.md R8; D4, D5). -/
inductive ScanWidth where
  | four
  | eight
deriving DecidableEq, Repr

/-- The number a scan width stands for. -/
def ScanWidth.bits : ScanWidth → Nat
  | .four => 4
  | .eight => 8

/-- The named parameters of 00_scope.md R8 that stay fixed while the machine runs. They ride in State because
a step takes nothing else (log 5); no event writes them. The draws of R8 are elsewhere: the reset draws are
arguments of `State.powerOn`, the pin answers and TX_FILL are in `Oracle`. -/
structure Params where
  /-- `CFG_SCAN_B`: positions `configure` scans for Bank B (D4). -/
  cfgScanB : ScanWidth
  /-- `WR_SCAN_B`: positions `write_output` scans for Bank B (D5). -/
  wrScanB : ScanWidth
  /-- `RX_CAPACITY - 2`, so that `RX_CAPACITY ≥ 2` (D8) holds of every value. -/
  rxBeyondTwo : Nat
deriving DecidableEq, Repr

/-- `RX_CAPACITY`: the most bytes the transport delivers in one receive event (20_memory.md R57). -/
def Params.rxCapacity (p : Params) : Nat := p.rxBeyondTwo + 2

/-- The parameters of the machine right after reset: the spec's defaults `CFG_SCAN_B = 8` and `WR_SCAN_B = 4`
(D4, D5). PRESUMED, log 5: `RX_CAPACITY = 32`, which the spec names (G1) and does not adopt. -/
def Params.default : Params := { cfgScanB := .eight, wrScanB := .four, rxBeyondTwo := 30 }

/-- FREE VALUE, log 6: the bit the `n`-th unlisted draw answers to a `DigitalRead` (20_memory.md R55, D15). -/
opaque Config.digitalDraw : Nat → Bool

/-- FREE VALUE, log 6: the sample the `n`-th unlisted draw answers to an `AnalogRead`, 0..1023 (R55, D15). -/
opaque Config.analogDraw : Nat → BitVec 10

/-- FREE VALUE, log 6: the byte the `n`-th unlisted draw gives for `TX_FILL` (20_memory.md R58, D12). -/
opaque Config.fillDraw : Nat → Byte

end Sys2Proof
end

