-- ==== Sys2Proof/Machine/State.lean ====
section
/-! DEFINITION. The state of the block (10_state.md R20 to R35), the events it handles, the outputs of one event,
and the reasons a step can stop. -/

namespace Sys2Proof.Machine

/-- A step never ends in a fault: no error of the block is fatal and each is handled where it is found, as a next
state (60_exceptions.md R206, R207). So there is no constructor. -/
inductive Fault where
deriving DecidableEq, Repr

/-- Why a step gives no meaning. -/
inductive Refusal where
  /-- Raised by `exec`'s arm of an instruction that has no meaning yet (no arm at present). Safe. -/
  | notModelled (mnemonic : String)
  /-- Raised by `handleEvent` on a receive event of more than RX_CAPACITY bytes: the transport delivers none
  (20_memory.md R57), and what it does with such a write is outside the block (93_implementation_defined.md I12).
  Safe (log 7). -/
  | aboveRxCapacity (count : Nat)
deriving DecidableEq, Repr

/-- The mode argument of `PinMode` (00_scope.md R14). -/
inductive PinMode where
  | input
  | output
deriving DecidableEq, Repr

/-- One entry of the pin-call trace, with the value returned by a read (00_scope.md R14). A pin number is an
opaque integer (20_memory.md R53). -/
inductive PinCall where
  | pinMode (pin : Nat) (mode : PinMode)
  | digitalWrite (pin : Nat) (level : Bool)
  | digitalRead (pin : Nat) (level : Bool)
  | analogRead (pin : Nat) (sample : BitVec 10)
deriving DecidableEq, Repr

/-- The five errors (60_exceptions.md R200), each with the information it records. -/
inductive BlockError where
  /-- Code 1: an operation got a bank id outside 0 and 1 (R201). -/
  | unknownBank (bank : Byte)
  /-- Code 2: byte 0 is not in the opcode table (R202). -/
  | unknownOpcode (op : Byte)
  /-- Code 3: an argument opcode has no second byte (R203). -/
  | truncatedArgument (op : Byte)
  /-- Code 4: a message of 0 or more than 2 bytes (R204). -/
  | invalidMessageLength (count : Nat)
  /-- Code 5: SEL outside its enumeration, unreachable with 3 bits (R205). -/
  | unreachableReadState (sel : Nat)
deriving DecidableEq, Repr

/-- One entry of the diagnostic trace (60_exceptions.md R218). Text is not modelled (00_scope.md R6). -/
inductive DiagEvent where
  | error (e : BlockError)
  | config (bank : Byte) (mask : Byte)
  | write (bank : Byte) (dir : Byte) (data : Byte)
  | echo (byte : Byte)
deriving DecidableEq, Repr

/-- What can happen to the block: the transport's two events (60_exceptions.md R210) and a power cycle
(70_reset_and_hazards.md R230, R231). -/
inductive Event where
  /-- A master write of these bytes in order; RxCount is their number (20_memory.md R57, D7). -/
  | receive (message : List Byte)
  /-- A master read of `n` bytes (20_memory.md R58; 30_encoding.md R81). -/
  | request (n : Nat)
  /-- Power removed and applied, with the draws DIR_RESET_A and DIR_RESET_B (10_state.md R35; log 8). -/
  | powerCycle (dirResetA : BitVec 8) (dirResetB : BitVec 4)
deriving DecidableEq, Repr

/-- What the environment answers to the coming reads (00_scope.md R8; log 6): the listed answers first, then free
values numbered by `draws`. -/
structure Oracle where
  /-- Answers to the coming `DigitalRead` calls, in call order. -/
  digital : List Bool
  /-- Answers to the coming `AnalogRead` calls, in call order. -/
  analog : List (BitVec 10)
  /-- The coming TX_FILL bytes. -/
  fill : List Byte
  /-- How many free values have been drawn. -/
  draws : Nat
deriving DecidableEq, Repr

/-- The machine. `dirA`, `dirB` and `sel` are the block's whole persistent state (10_state.md R20). -/
structure State where
  /-- DIR_A: bit i set means pin 2+i is an input (R24). -/
  dirA : BitVec 8
  /-- DIR_B: bit i set means pin 10+i is an input (R25). -/
  dirB : BitVec 4
  /-- SEL, the Read Selector, in the encoding of R27. -/
  sel : BitVec 3
  /-- The bytes of the inbound message not yet consumed (R30). -/
  rx : List Byte
  /-- The outbound response of the latest event (R31). -/
  response : List Byte
  /-- The pin-call trace of the latest event (00_scope.md R14). -/
  pinTrace : List PinCall
  /-- The diagnostic trace of the latest event (60_exceptions.md R218). -/
  diagTrace : List DiagEvent
  /-- What the master received in the latest event (42_read_dispatch.md R176). -/
  masterRx : List Byte
  /-- The events still to be handled, in bus order (60_exceptions.md R211; log 1). -/
  inbox : List Event
  /-- The environment's answers (log 6). -/
  oracle : Oracle
  /-- The parameters of 00_scope.md R8 (log 5). -/
  params : Params
deriving DecidableEq, Repr

/-- No answers lined up: every read draws a free value. -/
def Oracle.empty : Oracle := { digital := [], analog := [], fill := [], draws := 0 }

/-- The machine after power-on with the draws DIR_RESET_A and DIR_RESET_B (10_state.md R35;
70_reset_and_hazards.md R230, R232): SEL is DigitalBankA (code 0), no message and no response exist, no call and
no diagnostic has been made. -/
def State.powerOn (p : Params) (dirResetA : BitVec 8) (dirResetB : BitVec 4) : State :=
  { dirA := dirResetA, dirB := dirResetB, sel := 0#3,
    rx := [], response := [], pinTrace := [], diagTrace := [], masterRx := [],
    inbox := [], oracle := Oracle.empty, params := p }

/-- The machine right after reset. DESIGN CHOICE, log 3: the spec gives DIR_A and DIR_B no reset value (R35, D3);
here both are zero. Claims about power-on are stated for every `State.powerOn`. -/
def State.reset : State := State.powerOn Params.default 0#8 0#4

end Sys2Proof.Machine
end

