-- ==== Sys2Proof/Machine/Operands.lean ====
section
/-! DEFINITION. Operand forms and constant tables: bank ids and widths (40_pin_bank.md R100), the pin maps
(20_memory.md R51, R52), the Read Selector's encoding (10_state.md R27), and the bytes of an analog sample (R59). -/

namespace Sys2Proof.Machine

/-- Only 0 and 1 are banks (40_pin_bank.md R108). -/
def validBank (bank : Byte) : Bool := bank == 0#8 || bank == 1#8

/-- `width(b)`: 8 for bank 0, 4 for bank 1 (40_pin_bank.md R100). -/
def width (bank : Byte) : Nat := if bank = 0#8 then 8 else 4

/-- `P(b, i) = 2 + 8*b + i`, the physical pin of bank `b` bit `i` (20_memory.md R51). -/
def digitalPin (bank : Byte) (i : Nat) : Nat := 2 + 8 * bank.toNat + i

/-- `PIN_LIMIT`, the highest physical pin `configure` may set as input (00_scope.md R7). -/
def pinLimit : Nat := 13

/-- Positions `configure` scans: 8 for bank 0, CFG_SCAN_B for bank 1 (40_pin_bank.md R101). -/
def configureScan (p : Params) (bank : Byte) : Nat := if bank = 0#8 then 8 else p.cfgScanB.bits

/-- Positions `write_output` scans: 8 for bank 0, WR_SCAN_B for bank 1 (40_pin_bank.md R104). -/
def writeScan (p : Params) (bank : Byte) : Nat := if bank = 0#8 then 8 else p.wrScanB.bits

/-- The mask a bank stores: for bank 1 "first reduced to its low 4 bits" (40_pin_bank.md R101). -/
def reduceMask (bank mask : Byte) : Byte := if bank = 1#8 then (mask.extractLsb' 0 4).setWidth 8 else mask

/-- The sources SEL can name (00_scope.md R18). -/
inductive ReadSelector where
  | digitalBankA
  | digitalBankB
  | analogChannel (k : Fin 6)
deriving DecidableEq, Repr

/-- The code of a source (10_state.md R27, D2). -/
def ReadSelector.code : ReadSelector → Nat
  | .digitalBankA => 0
  | .digitalBankB => 1
  | .analogChannel k => 2 + k.val

/-- The source of a code; a code outside the enumeration has none (10_state.md R27; 42_read_dispatch.md R174). -/
def ReadSelector.ofCode (code : Nat) : Option ReadSelector :=
  match code with
  | 0 => some .digitalBankA
  | 1 => some .digitalBankB
  | k + 2 => if h : k < 6 then some (.analogChannel ⟨k, h⟩) else none

/-- `AP(k)`, the physical pin of analog channel k, transcribed exactly (20_memory.md R52, R53). -/
def analogPin (k : Fin 6) : Nat :=
  match k with
  | 0 => 23
  | 1 => 24
  | 2 => 25
  | 3 => 26
  | 4 => 29
  | 5 => 30

/-- `[v[31:24], v[23:16], v[15:8], v[7:0]]` of `v = zext_32(sample)` (20_memory.md R59). -/
def sampleBytes (sample : BitVec 10) : List Byte :=
  let v : BitVec 32 := sample.setWidth 32
  [v.extractLsb' 24 8, v.extractLsb' 16 8, v.extractLsb' 8 8, v.extractLsb' 0 8]

/-- One step of the "shift-and-add accumulation" `r <- 2*r + b` (40_pin_bank.md R106). -/
def shiftAdd (r : Byte) (b : Bool) : Byte := 2#8 * r + (if b then 1#8 else 0#8)

/-- The numeric code of an error (60_exceptions.md R200, D10). -/
def BlockError.code : BlockError → Nat
  | .unknownBank _ => 1
  | .unknownOpcode _ => 2
  | .truncatedArgument _ => 3
  | .invalidMessageLength _ => 4
  | .unreachableReadState _ => 5

/-- The information an error records, as a number (60_exceptions.md R200). -/
def BlockError.info : BlockError → Nat
  | .unknownBank bank => bank.toNat
  | .unknownOpcode op => op.toNat
  | .truncatedArgument op => op.toNat
  | .invalidMessageLength count => count
  | .unreachableReadState sel => sel

/-- The pin a call addresses. -/
def PinCall.pin : PinCall → Nat
  | .pinMode p _ => p
  | .digitalWrite p _ => p
  | .digitalRead p _ => p
  | .analogRead p _ => p

end Sys2Proof.Machine
end

