-- ==== Sys2Proof/Machine/Ops.lean ====
section
/-! DEFINITION. The named operations over registers, traces, transport and environment (00_scope.md R12 to R15),
and taking an error, one shared operation (R15; 60_exceptions.md R206). -/

namespace Sys2Proof.Machine

/-- `zext_8(DIR[bank])`; bits 7:4 of Bank B's byte view read 0 (00_scope.md R12; 10_state.md R25). Used only for
bank 0 and bank 1. -/
def State.dir (s : State) (bank : Byte) : Byte := if bank = 0#8 then s.dirA else s.dirB.setWidth 8

/-- `DIR[bank] <- m`, of which Bank B takes `m[3:0]` (40_pin_bank.md R101). -/
def State.setDir (s : State) (bank m : Byte) : State :=
  if bank = 0#8 then { s with dirA := m } else { s with dirB := m.extractLsb' 0 4 }

/-- `SEL <- source` (00_scope.md R12), in the encoding of 10_state.md R27. -/
def State.select (s : State) (source : ReadSelector) : State := { s with sel := BitVec.ofNat 3 source.code }

/-- Pin calls appended to the pin-call trace in program order (00_scope.md R14). -/
def State.callPins (s : State) (calls : List PinCall) : State := { s with pinTrace := s.pinTrace ++ calls }

/-- `Diag(ev)` (00_scope.md R15). -/
def State.diag (s : State) (ev : DiagEvent) : State := { s with diagTrace := s.diagTrace ++ [ev] }

/-- Taking an error: `raise E(info)` appends `Error(E, info)` and nothing else; no state is saved, no mode or mask
changes, no handler runs (00_scope.md R15; 60_exceptions.md R206). Ending the operation is the caller's `else`. -/
def State.raise (s : State) (e : BlockError) : State := s.diag (.error e)

/-- `TxByte(v)` for each byte in order (00_scope.md R13). -/
def State.txBytes (s : State) (bytes : List Byte) : State := { s with response := s.response ++ bytes }

/-- The next answer to a `DigitalRead`: the first listed one, else a free value (20_memory.md R55; log 6). -/
def Oracle.nextDigital (o : Oracle) : Bool × Oracle :=
  match o.digital with
  | b :: rest => (b, { o with digital := rest })
  | [] => (Config.digitalDraw o.draws, { o with draws := o.draws + 1 })

/-- The next answer to an `AnalogRead` (20_memory.md R55; log 6). -/
def Oracle.nextAnalog (o : Oracle) : BitVec 10 × Oracle :=
  match o.analog with
  | v :: rest => (v, { o with analog := rest })
  | [] => (Config.analogDraw o.draws, { o with draws := o.draws + 1 })

/-- The next TX_FILL byte (20_memory.md R58; log 6). -/
def Oracle.nextFill (o : Oracle) : Byte × Oracle :=
  match o.fill with
  | v :: rest => (v, { o with fill := rest })
  | [] => (Config.fillDraw o.draws, { o with draws := o.draws + 1 })

/-- The next `k` TX_FILL bytes (20_memory.md R58). -/
def Oracle.fillBytes : Nat → Oracle → List Byte × Oracle
  | 0, o => ([], o)
  | k + 1, o =>
    let first := o.nextFill
    let more := Oracle.fillBytes k first.2
    (first.1 :: more.1, more.2)

/-- `DigitalRead(p)`: the answer, recorded in the pin-call trace (00_scope.md R14; 20_memory.md R55). -/
def State.digitalRead (s : State) (p : Nat) : Bool × State :=
  let answer := s.oracle.nextDigital
  (answer.1, { s with oracle := answer.2, pinTrace := s.pinTrace ++ [.digitalRead p answer.1] })

/-- `AnalogRead(p)`: the sample, recorded in the pin-call trace (00_scope.md R14; 20_memory.md R55). -/
def State.analogRead (s : State) (p : Nat) : BitVec 10 × State :=
  let answer := s.oracle.nextAnalog
  (answer.1, { s with oracle := answer.2, pinTrace := s.pinTrace ++ [.analogRead p answer.1] })

/-- An event begins: it leaves the inbox and the outputs of the event before it are dropped (log 9). -/
def State.beginEvent (s : State) (rest : List Event) : State :=
  { s with inbox := rest, pinTrace := [], diagTrace := [], response := [], masterRx := [] }

/-- The bytes of the inbound message that are still to be consumed (00_scope.md R13). -/
def State.withRx (s : State) (bytes : List Byte) : State := { s with rx := bytes }

/-- The end of a receive event: what was not consumed is discarded, with no error and no echo (41_decoder.md R134, D9). -/
def State.endReceive (s : State) : State := { s with rx := [] }

/-- The drain of a message of bad length: every available byte is consumed in order and echoed (41_decoder.md R131). -/
def State.drain (s : State) : State :=
  { s with diagTrace := s.diagTrace ++ s.rx.map DiagEvent.echo, rx := [] }

/-- What the master receives when it reads `n` bytes: the first `n` of the response, or the response and then fill
bytes (20_memory.md R58; 42_read_dispatch.md R176, D12). -/
def State.masterReads (s : State) (n : Nat) : State :=
  let filled := s.oracle.fillBytes (n - s.response.length)
  { s with masterRx := s.response.take n ++ filled.1, oracle := filled.2 }

/-- Power removed and applied: the registers take the reset values of 10_state.md R35, no message or response
exists, and the block makes no call (70_reset_and_hazards.md R230, R232). What lies outside the block stays: the
events still to come, the answers lined up, the parameters (log 8). -/
def State.powerCycle (s : State) (dirResetA : BitVec 8) (dirResetB : BitVec 4) : State :=
  { State.powerOn s.params dirResetA dirResetB with inbox := s.inbox, oracle := s.oracle }

end Sys2Proof.Machine
end

