-- ==== Sys2Proof/Machine/PinBank.lean ====
section
/-! DEFINITION. The three operations of the register file (40_pin_bank.md R101, R104, R106). Each takes an 8-bit
bank id and checks it (R108). -/

namespace Sys2Proof.Machine

/-- The mode `configure` gives bit `i`: input if the bit is set and the pin is at most PIN_LIMIT (40_pin_bank.md R101). -/
def configureMode (bank m : Byte) (i : Nat) : PinMode :=
  if m.getLsbD i && decide (digitalPin bank i ≤ pinLimit) then .input else .output

/-- The `PinMode` calls of `configure`, bit 0 first (40_pin_bank.md R101; the order is D6). -/
def configureCalls (bank m : Byte) (n : Nat) : List PinCall :=
  (List.range n).map fun i => .pinMode (digitalPin bank i) (configureMode bank m i)

/-- `configure(bank, mask)` (40_pin_bank.md R101). -/
def configure (bank mask : Byte) (s : State) : State :=
  if validBank bank then
    let m := reduceMask bank mask
    ((s.callPins (configureCalls bank m (configureScan s.params bank))).setDir bank m).diag (.config bank m)
  else s.raise (.unknownBank bank)

/-- The `DigitalWrite` calls of `write_output`, bit 0 first: one for each position the mask `d` marks as output, none
for an input (40_pin_bank.md R104; the order is D6). -/
def writeCalls (bank d data : Byte) (n : Nat) : List PinCall :=
  (List.range n).filterMap fun i =>
    if d.getLsbD i then none else some (.digitalWrite (digitalPin bank i) (data.getLsbD i))

/-- `write_output(bank, data)` (40_pin_bank.md R104). -/
def writeOutput (bank data : Byte) (s : State) : State :=
  if validBank bank then
    let d := s.dir bank
    (s.callPins (writeCalls bank d data (writeScan s.params bank))).diag (.write bank d data)
  else s.raise (.unknownBank bank)

/-- The loop of `read_input` with `left` positions to go, so that `left - 1` is `pos` and the document's loop index is
`i = w - 1 - pos` (40_pin_bank.md R106; 90_conflicts.md C1). An output-marked position contributes 0 without a call. -/
def readLoop (bank : Byte) (w : Nat) (d : Byte) : Nat → Byte → State → Byte × State
  | 0, r, s => (r, s)
  | pos + 1, r, s =>
    let i := w - 1 - pos
    let p := 1 + w + 8 * bank.toNat - i
    if d.getLsbD pos then
      let sampled := s.digitalRead p
      readLoop bank w d pos (shiftAdd r sampled.1) sampled.2
    else readLoop bank w d pos (shiftAdd r false) s

/-- `read_input(bank)`: the snapshot, and the state after its pin calls (40_pin_bank.md R106). An unknown bank raises
"returning 0 without sampling". -/
def readInput (bank : Byte) (s : State) : Byte × State :=
  if validBank bank then readLoop bank (width bank) (s.dir bank) (width bank) 0#8 s
  else (0#8, s.raise (.unknownBank bank))

end Sys2Proof.Machine
end

