-- ==== Sys2Proof/Machine/Configure.lean ====
section
/-! DEFINITION. The configure commands (41_decoder.md R135, R136). The argument has been fetched by the decoder (R133). -/

namespace Sys2Proof.Machine

/-- `CFG.A imm8` (41_decoder.md R135). -/
def execCfgA (arg : Byte) (s : State) : Host.Outcome State Fault Refusal := .next (configure 0#8 arg s)

/-- `CFG.B imm8` (41_decoder.md R136). -/
def execCfgB (arg : Byte) (s : State) : Host.Outcome State Fault Refusal := .next (configure 1#8 arg s)

end Sys2Proof.Machine
end

