-- ==== Sys2Proof/Machine/Output.lean ====
section
/-! DEFINITION. The output commands (41_decoder.md R140, R141). The argument has been fetched by the decoder (R133). -/

namespace Sys2Proof.Machine

/-- `OUT.A imm8` (41_decoder.md R140). -/
def execOutA (arg : Byte) (s : State) : Host.Outcome State Fault Refusal := .next (writeOutput 0#8 arg s)

/-- `OUT.B imm8` (41_decoder.md R141). -/
def execOutB (arg : Byte) (s : State) : Host.Outcome State Fault Refusal := .next (writeOutput 1#8 arg s)

end Sys2Proof.Machine
end

