-- ==== Sys2Proof/Machine/Select.lean ====
section
/-! DEFINITION. The select commands: each writes SEL and nothing else, with no pin call and no diagnostic
(41_decoder.md R137 to R139, R142 to R147). -/

namespace Sys2Proof.Machine

/-- `SEL.DA` (41_decoder.md R137). -/
def execSelDA (s : State) : Host.Outcome State Fault Refusal := .next (s.select .digitalBankA)

/-- `SEL.DB` (41_decoder.md R138). -/
def execSelDB (s : State) : Host.Outcome State Fault Refusal := .next (s.select .digitalBankB)

/-- `SEL.AN0` (41_decoder.md R142). -/
def execSelAN0 (s : State) : Host.Outcome State Fault Refusal := .next (s.select (.analogChannel 0))

/-- `SEL.AN1` (41_decoder.md R143). -/
def execSelAN1 (s : State) : Host.Outcome State Fault Refusal := .next (s.select (.analogChannel 1))

/-- `SEL.AN2` (41_decoder.md R144). -/
def execSelAN2 (s : State) : Host.Outcome State Fault Refusal := .next (s.select (.analogChannel 2))

/-- `SEL.AN3` (41_decoder.md R145). -/
def execSelAN3 (s : State) : Host.Outcome State Fault Refusal := .next (s.select (.analogChannel 3))

/-- `SEL.AN4` (41_decoder.md R146). -/
def execSelAN4 (s : State) : Host.Outcome State Fault Refusal := .next (s.select (.analogChannel 4))

/-- `SEL.AN5` (41_decoder.md R147). -/
def execSelAN5 (s : State) : Host.Outcome State Fault Refusal := .next (s.select (.analogChannel 5))

end Sys2Proof.Machine
end

