-- ==== Sys2Proof/Machine/Dispatch.lean ====
section
/-! DEFINITION. One arm per instruction (30_encoding.md R74). -/

namespace Sys2Proof.Machine

def exec (i : Instr) (s : State) : Host.Outcome State Fault Refusal :=
  match i with
  | .cfgA arg => Sys2Proof.Machine.execCfgA arg s
  | .cfgB arg => Sys2Proof.Machine.execCfgB arg s
  | .selDA => Sys2Proof.Machine.execSelDA s
  | .selDB => Sys2Proof.Machine.execSelDB s
  | .outA arg => Sys2Proof.Machine.execOutA arg s
  | .outB arg => Sys2Proof.Machine.execOutB arg s
  | .selAN0 => Sys2Proof.Machine.execSelAN0 s
  | .selAN1 => Sys2Proof.Machine.execSelAN1 s
  | .selAN2 => Sys2Proof.Machine.execSelAN2 s
  | .selAN3 => Sys2Proof.Machine.execSelAN3 s
  | .selAN4 => Sys2Proof.Machine.execSelAN4 s
  | .selAN5 => Sys2Proof.Machine.execSelAN5 s

end Sys2Proof.Machine
end

