-- ==== Sys2Proof/Machine/ReadDispatch.lean ====
section
/-! DEFINITION. The analog-source multiplexer and the read dispatcher (42_read_dispatch.md R170 to R176). -/

namespace Sys2Proof.Machine

/-- A digital source: `b <- read_input(bank)`, then `TxByte(b)`, which follows even if `read_input` raised
(42_read_dispatch.md R171, R172). -/
def respondDigital (bank : Byte) (s : State) : State :=
  let snapshot := readInput bank s
  snapshot.2.txBytes [snapshot.1]

/-- An analog source: one sample of the channel's pin, as 4 bytes (42_read_dispatch.md R173). -/
def respondAnalog (k : Fin 6) (s : State) : State :=
  let sampled := s.analogRead (analogPin k)
  sampled.2.txBytes (sampleBytes sampled.1)

/-- `dispatch` on a selector value, total on every number: a value outside the enumeration raises
UnreachableReadState and writes nothing (42_read_dispatch.md R170, R174). -/
def dispatchCode (code : Nat) (s : State) : State :=
  match ReadSelector.ofCode code with
  | some .digitalBankA => respondDigital 0#8 s
  | some .digitalBankB => respondDigital 1#8 s
  | some (.analogChannel k) => respondAnalog k s
  | none => s.raise (.unreachableReadState code)

/-- `dispatch` (42_read_dispatch.md R170). -/
def dispatch (s : State) : State := dispatchCode s.sel.toNat s

/-- One request event: the block builds its whole response, then the master clocks out `n` bytes (20_memory.md R58). -/
def handleRequest (n : Nat) (s : State) : State := (dispatch s).masterReads n

end Sys2Proof.Machine
end

