-- ==== Sys2Proof/WellFormed.lean ====
section
/-! DEFINITION. What is checked before a term means a transaction. Every `Instr` is well formed by its type
(an 8-bit argument, 30_encoding.md R77), so the checks are on assembly lines (R80, R81) and on the length of a
delivered message (20_memory.md R57). -/

namespace Sys2Proof

/-- The 12 mnemonics of 30_encoding.md R74 and R80. -/
inductive Mnemonic where
  | cfgA | cfgB | selDA | selDB | outA | outB | selAN0 | selAN1 | selAN2 | selAN3 | selAN4 | selAN5
deriving DecidableEq, Repr

/-- Whether the mnemonic takes `imm8` (30_encoding.md R80). -/
def Mnemonic.takesOperand : Mnemonic → Bool
  | .cfgA | .cfgB | .outA | .outB => true
  | .selDA | .selDB | .selAN0 | .selAN1 | .selAN2 | .selAN3 | .selAN4 | .selAN5 => false

/-- One line of assembly, one bus transaction (30_encoding.md R80, R81). Literals are as written, so a value may
be out of range. -/
inductive Line where
  /-- A mnemonic with its literal, if one is written. -/
  | cmd (m : Mnemonic) (imm : Option Nat)
  /-- `WR b0, b1, ...`: a master write of exactly the listed bytes. -/
  | wr (bytes : List Nat)
  /-- `RD n`: a master read of n bytes. -/
  | rd (n : Nat)
deriving DecidableEq, Repr

/-- The operand check of 30_encoding.md R80: an argument command has a literal in 0..255, a select command has none. -/
def operandOk (m : Mnemonic) (imm : Option Nat) : Bool :=
  match imm with
  | some n => m.takesOperand && decide (n < 256)
  | none => !m.takesOperand

/-- An assembler accepts the line (30_encoding.md R80, R81). -/
def Line.wf : Line → Bool
  | .cmd m imm => operandOk m imm
  | .wr bytes => bytes.all fun b => decide (b < 256)
  | .rd _ => true

/-- The transport can deliver a message of this many bytes in one receive event (20_memory.md R57). -/
def deliverableCount (p : Params) (count : Nat) : Bool := decide (count ≤ p.rxCapacity)

end Sys2Proof
end

