-- ==== Sys2Proof/Machine/Events.lean ====
section
/-! DEFINITION. The handlers of one event (41_decoder.md R130; 42_read_dispatch.md R170; 70_reset_and_hazards.md R230). -/

namespace Sys2Proof.Machine

/-- The error a rejected message raises (60_exceptions.md R202 to R204). -/
def rejectError : Reject → BlockError
  | .invalidMessageLength count => .invalidMessageLength count
  | .unknownOpcode op => .unknownOpcode op
  | .truncatedArgument op => .truncatedArgument op

/-- A rejected message: a bad length first drains and echoes every byte (41_decoder.md R131, D21), then the error is
raised. No register is written and no pin is called (R149). -/
def rejectMessage (r : Reject) (s : State) : State :=
  match r with
  | .invalidMessageLength _ => s.drain.raise (rejectError r)
  | .unknownOpcode _ | .truncatedArgument _ => s.raise (rejectError r)

/-- A state change applied to the next state of an outcome. -/
def onNext (f : State → State) : Host.Outcome State Fault Refusal → Host.Outcome State Fault Refusal
  | .next s => .next (f s)
  | .fault r => .fault r
  | .refused r => .refused r

/-- `handle_receive`: decode the message, run its command with the bytes it left unconsumed still pending or raise its
error, then end the event (41_decoder.md R130 to R134). -/
def handleReceive (message : List Byte) (s : State) : Host.Outcome State Fault Refusal :=
  match decode message with
  | .command i unconsumed => onNext State.endReceive (exec i (s.withRx unconsumed))
  | .rejected r _ => .next (rejectMessage r (s.withRx message)).endReceive

/-- One event, to completion (00_scope.md R9). -/
def handleEvent (e : Event) (s : State) : Host.Outcome State Fault Refusal :=
  match e with
  | .receive message =>
    if deliverableCount s.params message.length then handleReceive message s
    else .refused (.aboveRxCapacity message.length)
  | .request n => .next (handleRequest n s)
  | .powerCycle dirResetA dirResetB => .next (s.powerCycle dirResetA dirResetB)

/-- With no event the block waits and nothing changes (00_scope.md R10; log 2). -/
def waitForEvent (s : State) : State := s

/-- The first instruction fetched next is this message: it stands first among the events to come (log 10). -/
def State.deliverFirst (s : State) (message : List Byte) : State := { s with inbox := .receive message :: s.inbox }

end Sys2Proof.Machine
end

