-- ==== Sys2Proof/Machine/Step.lean ====
section
/-! DEFINITION. One step: the next event in bus order is handled to completion (00_scope.md R9; 20_memory.md R65). -/

namespace Sys2Proof.Machine

/-- One step of the machine. -/
def step (s : State) : Host.Outcome State Fault Refusal :=
  match s.inbox with
  | [] => .next (waitForEvent s)
  | e :: rest => handleEvent e (s.beginEvent rest)

/-- The state with an opcode-table row's message as the very next event (log 10). -/
def State.withFetchWord (s : State) (nbits w : Nat) : State := s.deliverFirst (tableMessage nbits w)

end Sys2Proof.Machine
end

