-- ==== Sys2Proof/Machine/Bus.lean ====
section
/-! DEFINITION. The block's side of the bus: which transactions of a master become events (00_scope.md R3, R9;
20_memory.md R54; 60_exceptions.md R210, R211). -/

namespace Sys2Proof.Machine

/-- A transaction a master issues, with the 7-bit address it names. -/
inductive Transaction where
  | write (addr : BitVec 7) (bytes : List Byte)
  | read (addr : BitVec 7) (n : Nat)
deriving DecidableEq, Repr

/-- The block's fixed bus address (00_scope.md R3, R7). -/
def i2cAddr : BitVec 7 := 0x40#7

/-- One receive event for each write to 0x40, one request event for each read from 0x40, and no event for any other
address (00_scope.md R9; 20_memory.md R54; log 13). -/
def deliver? : Transaction → Option Event
  | .write addr bytes => if addr = i2cAddr then some (.receive bytes) else none
  | .read addr n => if addr = i2cAddr then some (.request n) else none

/-- Transactions handed to the transport after those already waiting, in bus order (60_exceptions.md R211, D17). -/
def State.submit (s : State) (transactions : List Transaction) : State :=
  { s with inbox := s.inbox ++ transactions.filterMap deliver? }

end Sys2Proof.Machine
end

