-- ==== Sys2Proof/Machine/Assembly.lean ====
section
/-! DEFINITION. The assembly text of 30_encoding.md R80 and R81: one line is one transaction to the block's address. The
text's details that the spec leaves open are in log 14. -/

namespace Sys2Proof.Machine

/-- The command a mnemonic and its operand name, if the line is well formed (30_encoding.md R80). -/
def commandOf (m : Mnemonic) (imm : Option Nat) : Option Instr :=
  if operandOk m imm then
    let arg : Byte := BitVec.ofNat 8 (imm.getD 0)
    match m with
    | .cfgA => some (.cfgA arg)
    | .cfgB => some (.cfgB arg)
    | .selDA => some .selDA
    | .selDB => some .selDB
    | .outA => some (.outA arg)
    | .outB => some (.outB arg)
    | .selAN0 => some .selAN0
    | .selAN1 => some .selAN1
    | .selAN2 => some .selAN2
    | .selAN3 => some .selAN3
    | .selAN4 => some .selAN4
    | .selAN5 => some .selAN5
  else none

/-- The transaction of a line, or none where an assembler refuses it (30_encoding.md R80, R81). -/
def transactionOf (line : Line) : Option Transaction :=
  match line with
  | .cmd m imm => (commandOf m imm).map fun i => .write i2cAddr (encode i)
  | .wr bytes => if line.wf then some (.write i2cAddr (bytes.map (BitVec.ofNat 8))) else none
  | .rd n => some (.read i2cAddr n)

/-- What stands before a `;` (30_encoding.md R80). -/
def stripComment (text : List Char) : List Char := text.takeWhile (· != ';')

/-- Blanks and commas separate words (log 14). -/
def isSeparator (c : Char) : Bool := c == ' ' || c == '\t' || c == ','

/-- The words of a text; `word` is the one being read. -/
def wordsFrom (word : List Char) : List Char → List (List Char)
  | [] => if word.isEmpty then [] else [word]
  | c :: rest =>
    if isSeparator c then (if word.isEmpty then wordsFrom [] rest else word :: wordsFrom [] rest)
    else wordsFrom (word ++ [c]) rest

/-- The value of a digit in base `base`. -/
def digitOf (base : Nat) (c : Char) : Option Nat :=
  let v :=
    if '0' ≤ c ∧ c ≤ '9' then some (c.toNat - '0'.toNat)
    else if 'a' ≤ c ∧ c ≤ 'f' then some (10 + c.toNat - 'a'.toNat)
    else if 'A' ≤ c ∧ c ≤ 'F' then some (10 + c.toNat - 'A'.toNat)
    else none
  v.filter (· < base)

/-- Digits in base `base`, most significant first, after the value `acc`. -/
def digitsFrom (base acc : Nat) : List Char → Option Nat
  | [] => some acc
  | c :: rest =>
    match digitOf base c with
    | some v => digitsFrom base (base * acc + v) rest
    | none => none

/-- A nonempty run of digits. -/
def digits (base : Nat) (text : List Char) : Option Nat := if text.isEmpty then none else digitsFrom base 0 text

/-- A literal: `0x..`, `0b..` or decimal (30_encoding.md R80). -/
def literal (text : List Char) : Option Nat :=
  match text with
  | '0' :: 'x' :: rest => digits 16 rest
  | '0' :: 'b' :: rest => digits 2 rest
  | other => digits 10 other

/-- The spelling of each mnemonic (30_encoding.md R74). -/
def spelling : Mnemonic → List Char
  | .cfgA => ['C', 'F', 'G', '.', 'A']
  | .cfgB => ['C', 'F', 'G', '.', 'B']
  | .selDA => ['S', 'E', 'L', '.', 'D', 'A']
  | .selDB => ['S', 'E', 'L', '.', 'D', 'B']
  | .outA => ['O', 'U', 'T', '.', 'A']
  | .outB => ['O', 'U', 'T', '.', 'B']
  | .selAN0 => ['S', 'E', 'L', '.', 'A', 'N', '0']
  | .selAN1 => ['S', 'E', 'L', '.', 'A', 'N', '1']
  | .selAN2 => ['S', 'E', 'L', '.', 'A', 'N', '2']
  | .selAN3 => ['S', 'E', 'L', '.', 'A', 'N', '3']
  | .selAN4 => ['S', 'E', 'L', '.', 'A', 'N', '4']
  | .selAN5 => ['S', 'E', 'L', '.', 'A', 'N', '5']

/-- Every mnemonic. -/
def mnemonics : List Mnemonic :=
  [.cfgA, .cfgB, .selDA, .selDB, .outA, .outB, .selAN0, .selAN1, .selAN2, .selAN3, .selAN4, .selAN5]

/-- The mnemonic a word spells, letter for letter. -/
def mnemonicOf (word : List Char) : Option Mnemonic := mnemonics.find? fun m => spelling m == word

/-- Every word as a literal. -/
def literals : List (List Char) → Option (List Nat)
  | [] => some []
  | w :: rest =>
    match literal w, literals rest with
    | some v, some vs => some (v :: vs)
    | _, _ => none

/-- A line of text as a `Line`; none for text that spells none, a blank line among them (30_encoding.md R80, R81). -/
def parseLine (text : List Char) : Option Line :=
  match wordsFrom [] (stripComment text) with
  | [] => none
  | head :: operands =>
    match literals operands with
    | none => none
    | some values =>
      if head = ['W', 'R'] then some (.wr values)
      else if head = ['R', 'D'] then
        match values with
        | [n] => some (.rd n)
        | _ => none
      else
        match mnemonicOf head, values with
        | some m, [] => some (.cmd m none)
        | some m, [v] => some (.cmd m (some v))
        | _, _ => none

/-- The transaction a line of text assembles to (30_encoding.md R80, R81). -/
def assemble (text : String) : Option Transaction := (parseLine text.toList).bind transactionOf

end Sys2Proof.Machine
end

