-- ==== Sys2Proof/Safety.lean ====
section
/-! DEFINITION. The terms the claims use: what every event leaves behind (`RecordOk`), the register effect of an event
written from the spec's own tables (`Regs.after`), and what may be in the inbox. -/

namespace Sys2Proof.Machine

/-- A call the block can make under these parameters (20_memory.md R51, R52; 40_pin_bank.md R101): pins 2..13, the six
analog pins, and pins 14..17 only in a scan of 8 positions of Bank B, by `configure` as outputs only. -/
def PinCall.mapped (p : Params) : PinCall → Bool
  | .pinMode pin mode =>
    (decide (2 ≤ pin) && decide (pin ≤ 13)) ||
      (p.cfgScanB == .eight && decide (14 ≤ pin) && decide (pin ≤ 17) && mode == .output)
  | .digitalWrite pin _ =>
    (decide (2 ≤ pin) && decide (pin ≤ 13)) || (p.wrScanB == .eight && decide (14 ≤ pin) && decide (pin ≤ 17))
  | .digitalRead pin _ => decide (2 ≤ pin) && decide (pin ≤ 13)
  | .analogRead pin _ => [23, 24, 25, 26, 29, 30].contains pin

/-- The event is an error report. -/
def DiagEvent.isError : DiagEvent → Bool
  | .error _ => true
  | .config _ _ | .write _ _ _ | .echo _ => false

/-- The invariant that every step keeps: no byte of a message outlives its event (10_state.md R30), a response has 0, 1
or 4 bytes (R31), every pin call is on a mapped pin (20_memory.md R51, R52), an event raises at most one error
(60_exceptions.md R209), and an event that raised one called no pin and answered nothing (R206). -/
abbrev State.RecordOk (s : State) : Prop :=
  s.rx = [] ∧
  (s.response.length = 0 ∨ s.response.length = 1 ∨ s.response.length = 4) ∧
  (s.pinTrace.all (PinCall.mapped s.params) = true) ∧
  (s.diagTrace.countP DiagEvent.isError ≤ 1) ∧
  (s.diagTrace.any DiagEvent.isError = true → s.pinTrace = [] ∧ s.response = [])

/-- The persistent registers (10_state.md R20). -/
structure Regs where
  dirA : BitVec 8
  dirB : BitVec 4
  sel : BitVec 3
deriving DecidableEq, Repr

/-- The registers of a state. -/
def State.regs (s : State) : Regs := { dirA := s.dirA, dirB := s.dirB, sel := s.sel }

/-- What an accepted opcode and what follows it do to the registers, from the tables of 10_state.md R27 and R34 alone. -/
def Regs.afterMessage (r : Regs) (op : Byte) (arg : Option Byte) : Regs :=
  if op = 0x00#8 then { r with dirA := arg.getD r.dirA }
  else if op = 0x01#8 then
    match arg with
    | some m => { r with dirB := BitVec.ofNat 4 (m.toNat % 16) }
    | none => r
  else if op = 0x12#8 then { r with sel := 0#3 }
  else if op = 0x13#8 then { r with sel := 1#3 }
  else if op = 0x20#8 then { r with sel := 2#3 }
  else if op = 0x21#8 then { r with sel := 3#3 }
  else if op = 0x22#8 then { r with sel := 4#3 }
  else if op = 0x23#8 then { r with sel := 5#3 }
  else if op = 0x26#8 then { r with sel := 6#3 }
  else if op = 0x27#8 then { r with sel := 7#3 }
  else r

/-- The register effect of one event, from 30_encoding.md R78 and 10_state.md R34 and R35, without the decoder, the pins
or the traces. -/
def Regs.after (r : Regs) : Event → Regs
  | .receive [op] => r.afterMessage op none
  | .receive [op, b1] => r.afterMessage op (some b1)
  | .receive _ => r
  | .request _ => r
  | .powerCycle a b => { dirA := a, dirB := b, sel := 0#3 }

/-- The selector code an accepted message selects, from the table of 10_state.md R27 alone. -/
def selectedCode : Event → Option (BitVec 3)
  | .receive (op :: tail) =>
    if tail.length ≤ 1 then
      [(0x12#8, 0#3), (0x13#8, 1#3), (0x20#8, 2#3), (0x21#8, 3#3), (0x22#8, 4#3), (0x23#8, 5#3), (0x26#8, 6#3),
        (0x27#8, 7#3)].lookup op
    else none
  | .receive [] => none
  | .request _ => none
  | .powerCycle _ _ => none

/-- The event is a power cycle. -/
def Event.isPowerCycle : Event → Bool
  | .powerCycle _ _ => true
  | .receive _ | .request _ => false

/-- The call sets a mode or drives a pin; it does not read one. -/
def PinCall.isOutward : PinCall → Bool
  | .pinMode _ _ | .digitalWrite _ _ => true
  | .digitalRead _ _ | .analogRead _ _ => false

/-- The last call a trace makes on a pin. -/
def lastCallOn (pin : Nat) (trace : List PinCall) : Option PinCall := trace.reverse.find? fun c => c.pin == pin

/-- The pins of the input-marked positions below `w`, highest first (40_pin_bank.md R106). -/
def inputPins (bank d : Byte) (w : Nat) : List Nat :=
  ((List.range w).reverse.filter fun i => d.getLsbD i).map (digitalPin bank)

/-- The answers to the next `k` `DigitalRead` calls, in call order, and what is left of the environment. -/
def Oracle.digitalAnswers : Nat → Oracle → List Bool × Oracle
  | 0, o => ([], o)
  | k + 1, o =>
    let first := o.nextDigital
    let more := Oracle.digitalAnswers k first.2
    (first.1 :: more.1, more.2)

/-- The opcodes of 30_encoding.md R76: every byte outside the table. -/
def illegalOpcode (op : Byte) : Bool :=
  (decide (0x02 ≤ op.toNat) && decide (op.toNat ≤ 0x11)) || (decide (0x16 ≤ op.toNat) && decide (op.toNat ≤ 0x1F)) ||
    (decide (0x24 ≤ op.toNat) && decide (op.toNat ≤ 0x25)) || decide (0x28 ≤ op.toNat)

/-- The argument opcodes of 30_encoding.md R78 ("arg-op"). -/
def argumentOpcodes : List Byte := [0x00#8, 0x01#8, 0x14#8, 0x15#8]

/-- The select opcodes of 30_encoding.md R78 ("sel-op"). -/
def selectOpcodes : List Byte := [0x12#8, 0x13#8, 0x20#8, 0x21#8, 0x22#8, 0x23#8, 0x26#8, 0x27#8]

/-- The errors a message raises, by the precedence of 60_exceptions.md R208 alone. -/
def errorsOf (message : List Byte) : List DiagEvent :=
  if message.length ≠ 1 ∧ message.length ≠ 2 then [.error (.invalidMessageLength message.length)]
  else if illegalOpcode (message.headD 0#8) then [.error (.unknownOpcode (message.headD 0#8))]
  else if message.length = 1 ∧ message.headD 0#8 ∈ argumentOpcodes then
    [.error (.truncatedArgument (message.headD 0#8))]
  else []

/-- The transport can deliver the event (20_memory.md R57). -/
def Event.deliverable (p : Params) : Event → Bool
  | .receive message => decide (message.length ≤ p.rxCapacity)
  | .request _ => true
  | .powerCycle _ _ => true

end Sys2Proof.Machine
end

