-- ==== Sys2Proof/Certificates/Slice0/Obligations.lean ====
section
/-! DEFINITION. The statements for the provers. Where a clause rests on a decision of the spec (D<n>) or on a choice of
the model (log <n>), the docstring says so. -/

open Sys2Proof Sys2Proof.Machine

/-! Commands: result, completion and frame -/

/-- 41_decoder.md, section 2: `CFG.A arg` completes from every state; DIR_A is `arg`, pins 2..9 get their modes, the
diagnostic is ConfigDiag(0, arg), and nothing else changes. The call order is the spec's decision D6, the diagnostic D19. -/
def Obligations.CfgACompletesWithItsModesAndMask : Prop :=
  ∀ (arg : Byte) (s : State),
    exec (.cfgA arg) s = .next { s with
      dirA := arg
      pinTrace := s.pinTrace ++
        (List.range 8).map fun i => PinCall.pinMode (2 + i) (if arg.getLsbD i then .input else .output)
      diagTrace := s.diagTrace ++ [.config 0#8 arg] }

/-- 41_decoder.md, section 2: `CFG.B arg` completes from every state; DIR_B is `arg[3:0]`, pins 10..13 get their modes,
and under `CFG_SCAN_B = 8` pins 14..17 are made outputs. Scan width: parameter, decision D4; order D6; diagnostic D19. -/
def Obligations.CfgBCompletesWithItsModesAndMask : Prop :=
  ∀ (arg : Byte) (s : State),
    exec (.cfgB arg) s = .next { s with
      dirB := arg.extractLsb' 0 4
      pinTrace := s.pinTrace ++
        ((List.range 4).map fun i => PinCall.pinMode (10 + i) (if arg.getLsbD i then .input else .output)) ++
        (if s.params.cfgScanB = .eight then
          [.pinMode 14 .output, .pinMode 15 .output, .pinMode 16 .output, .pinMode 17 .output] else [])
      diagTrace := s.diagTrace ++ [.config 1#8 (arg &&& 0x0F#8)] }

/-- 41_decoder.md, section 4: `OUT.A arg` completes from every state; each output-marked pin of 2..9 is driven to its
data bit, no input-marked pin is called, the diagnostic is WriteDiag(0, DIR_A, arg), and nothing else changes. Order:
decision D6; diagnostic D19. -/
def Obligations.OutACompletesDrivingOutputs : Prop :=
  ∀ (arg : Byte) (s : State),
    exec (.outA arg) s = .next { s with
      pinTrace := s.pinTrace ++ (List.range 8).filterMap fun i =>
        if s.dirA.getLsbD i then none else some (PinCall.digitalWrite (2 + i) (arg.getLsbD i))
      diagTrace := s.diagTrace ++ [.write 0#8 s.dirA arg] }

/-- 41_decoder.md, section 4: `OUT.B arg` completes from every state; each output-marked pin of 10..13 is driven to its
data bit, and under `WR_SCAN_B = 8` pins 14..17 are driven from `arg[7:4]`. Scan width: parameter, decision D5; order
D6; diagnostic D19. -/
def Obligations.OutBCompletesDrivingOutputs : Prop :=
  ∀ (arg : Byte) (s : State),
    exec (.outB arg) s = .next { s with
      pinTrace := s.pinTrace ++
        ((List.range 4).filterMap fun i =>
          if s.dirB.getLsbD i then none else some (PinCall.digitalWrite (10 + i) (arg.getLsbD i))) ++
        (if s.params.wrScanB = .eight then
          [.digitalWrite 14 (arg.getLsbD 4), .digitalWrite 15 (arg.getLsbD 5), .digitalWrite 16 (arg.getLsbD 6),
            .digitalWrite 17 (arg.getLsbD 7)] else [])
      diagTrace := s.diagTrace ++ [.write 1#8 (s.dirB.setWidth 8) arg] }

/-- 41_decoder.md, sections 3 and 5: each select command completes from every state and writes its code to SEL and
nothing else: no pin call, no diagnostic (decision D11). The codes are the spec's decision D2. -/
def Obligations.SelectsCompleteWritingSelOnly : Prop :=
  ∀ s : State,
    exec .selDA s = .next { s with sel := 0#3 } ∧ exec .selDB s = .next { s with sel := 1#3 } ∧
    exec .selAN0 s = .next { s with sel := 2#3 } ∧ exec .selAN1 s = .next { s with sel := 3#3 } ∧
    exec .selAN2 s = .next { s with sel := 4#3 } ∧ exec .selAN3 s = .next { s with sel := 5#3 } ∧
    exec .selAN4 s = .next { s with sel := 6#3 } ∧ exec .selAN5 s = .next { s with sel := 7#3 }

/-- Frame of CFG.A and CFG.B (10_state.md, access summary): each writes its own bank's mask; SEL, the other bank's mask,
the message, the response, the environment and what is still to come are unchanged, and earlier trace entries stay. -/
def Obligations.ConfigureCommandsFrame : Prop :=
  ∀ (i : Instr) (arg : Byte) (s t : State), (i = .cfgA arg ∨ i = .cfgB arg) → exec i s = .next t →
    (i = .cfgB arg → t.dirA = s.dirA) ∧ (i = .cfgA arg → t.dirB = s.dirB) ∧ t.sel = s.sel ∧ t.rx = s.rx ∧
    t.response = s.response ∧ t.masterRx = s.masterRx ∧ t.inbox = s.inbox ∧ t.oracle = s.oracle ∧ t.params = s.params ∧
    s.pinTrace <+: t.pinTrace ∧ s.diagTrace <+: t.diagTrace

/-- Frame of OUT.A and OUT.B (10_state.md, access summary): no register is written; only the two traces grow. -/
def Obligations.OutputCommandsFrame : Prop :=
  ∀ (i : Instr) (arg : Byte) (s t : State), (i = .outA arg ∨ i = .outB arg) → exec i s = .next t →
    t.regs = s.regs ∧ t.rx = s.rx ∧ t.response = s.response ∧ t.masterRx = s.masterRx ∧ t.inbox = s.inbox ∧
    t.oracle = s.oracle ∧ t.params = s.params ∧ s.pinTrace <+: t.pinTrace ∧ s.diagTrace <+: t.diagTrace

/-! The register file's operations -/

/-- 40_pin_bank.md, what configure leaves behind: for bank 0 and 1, DIR holds the mask (bank 1: its low 4 bits), and the
last call on each pin of the bank set the mode that DIR says. -/
def Obligations.ConfigureLeavesModesMatchingDir : Prop :=
  ∀ (bank mask : Byte) (s : State), bank = 0#8 ∨ bank = 1#8 →
    (configure bank mask s).dir bank = (if bank = 0#8 then mask else mask &&& 0x0F#8) ∧
    ∀ i, i < width bank →
      lastCallOn (digitalPin bank i) (configure bank mask s).pinTrace =
        some (.pinMode (digitalPin bank i)
          (if ((configure bank mask s).dir bank).getLsbD i then .input else .output))

/-- 40_pin_bank.md, idempotence: the calls of `configure` do not depend on what DIR, SEL or the traces held, so a second
call makes the same calls again and leaves the same masks. -/
def Obligations.ConfigureRepeatsItsCalls : Prop :=
  ∀ (bank mask : Byte) (s s' : State), bank = 0#8 ∨ bank = 1#8 → s'.params = s.params →
    ∃ calls : List PinCall, calls.length ≥ width bank ∧
      (configure bank mask s).pinTrace = s.pinTrace ++ calls ∧
      (configure bank mask s').pinTrace = s'.pinTrace ++ calls ∧
      (configure bank mask (configure bank mask s)).pinTrace = s.pinTrace ++ calls ++ calls ∧
      (configure bank mask (configure bank mask s)).regs = (configure bank mask s).regs

/-- 40_pin_bank.md, write never touches an input: whatever the mask and the data, `write_output` adds no call on a pin
that DIR marks as input. -/
def Obligations.WriteNeverTouchesAnInput : Prop :=
  ∀ (bank data : Byte) (s : State) (i : Nat), bank = 0#8 ∨ bank = 1#8 → i < width bank → (s.dir bank).getLsbD i = true →
    ∃ calls : List PinCall, (writeOutput bank data s).pinTrace = s.pinTrace ++ calls ∧
      ∀ c ∈ calls, c.pin ≠ digitalPin bank i

/-- 40_pin_bank.md R106, whole: for a bank 0 or 1 the calls are one `DigitalRead` per input-marked position, pins
descending, answered by the environment in that order; result bit i is the answer of its own pin `P(b, i)` where the
position is an input below the width, and 0 elsewhere; no register is written, no diagnostic is emitted. Another bank
id raises UnknownBank, samples nothing and returns 0; no event reaches that. The dispatcher invokes it for bank 0 while
SEL is DA and for bank 1 while SEL is DB. -/
def Obligations.ReadInputSamplesEachInputPin : Prop :=
  ∀ (bank : Byte) (s : State),
    (bank = 0#8 ∨ bank = 1#8 →
      let pins := inputPins bank (s.dir bank) (width bank)
      let answers := s.oracle.digitalAnswers pins.length
      (readInput bank s).2 = { s with
        oracle := answers.2
        pinTrace := s.pinTrace ++ List.zipWith PinCall.digitalRead pins answers.1 } ∧
      ∀ i, i < 8 → ((readInput bank s).1.getLsbD i = true ↔
        i < width bank ∧ (s.dir bank).getLsbD i = true ∧
          PinCall.digitalRead (digitalPin bank i) true ∈ List.zipWith PinCall.digitalRead pins answers.1)) ∧
    (bank ≠ 0#8 → bank ≠ 1#8 →
      readInput bank s = (0#8, { s with diagTrace := s.diagTrace ++ [.error (.unknownBank bank)] })) ∧
    (s.sel = 0#3 → dispatch s = (readInput 0#8 s).2.txBytes [(readInput 0#8 s).1]) ∧
    (s.sel = 1#3 → dispatch s = (readInput 1#8 s).2.txBytes [(readInput 1#8 s).1]) ∧
    (∀ t : State, s.inbox ≠ [] → step s = .next t → DiagEvent.error (.unknownBank bank) ∉ t.diagTrace)

/-- 40_pin_bank.md, read result bounds: the result fits the bank's width, and an output-marked position reads 0
whatever the pins answer. -/
def Obligations.ReadInputFitsWidthAndMask : Prop :=
  ∀ (bank : Byte) (s : State), bank = 0#8 ∨ bank = 1#8 →
    (readInput bank s).1 &&& ~~~(s.dir bank) = 0#8 ∧ (bank = 1#8 → (readInput bank s).1.toNat ≤ 0x0F)

/-- 60_exceptions.md R201, whole: with a bank id outside 0 and 1 each operation records Error(UnknownBank, bank) and
changes nothing else, `read_input` returns 0; and no event the transport delivers records that error. -/
def Obligations.UnknownBankIsANoOpAndUnreachable : Prop :=
  (∀ (bank x : Byte) (s : State), bank ≠ 0#8 → bank ≠ 1#8 →
    configure bank x s = { s with diagTrace := s.diagTrace ++ [.error (.unknownBank bank)] } ∧
    writeOutput bank x s = { s with diagTrace := s.diagTrace ++ [.error (.unknownBank bank)] } ∧
    readInput bank s = (0#8, { s with diagTrace := s.diagTrace ++ [.error (.unknownBank bank)] })) ∧
  (∀ (bank : Byte) (s t : State), s.inbox ≠ [] → step s = .next t → DiagEvent.error (.unknownBank bank) ∉ t.diagTrace)

/-! Master reads -/

/-- 42_read_dispatch.md R171 and R172, whole: while SEL is DA (or DB) a master read is answered with exactly 1 byte, the
snapshot of bank 0 (or 1): bit i is what the `DigitalRead` of pin P(b, i) answered at an input, 0 at an output, 0 from
the width on; the calls are the input-marked pins, descending; no error is raised and no register changes; with no
input marked the byte is 0 and no pin is sampled; and the byte 0 is sent even if `read_input` raises. -/
def Obligations.DigitalReadsAnswerOneSnapshotByte : Prop :=
  (∀ (bank : Byte) (s : State) (n : Nat) (rest : List Event), bank = 0#8 ∨ bank = 1#8 →
    s.inbox = .request n :: rest → s.sel = (if bank = 0#8 then 0#3 else 1#3) →
    ∃ (t : State) (b : Byte), step s = .next t ∧ t.response = [b] ∧ t.regs = s.regs ∧ t.diagTrace = [] ∧
      t.inbox = rest ∧ t.pinTrace.map PinCall.pin = inputPins bank (s.dir bank) (width bank) ∧
      (∀ c ∈ t.pinTrace, ∃ v, c = .digitalRead c.pin v) ∧
      (∀ i, i < 8 → (b.getLsbD i = true ↔ i < width bank ∧ (s.dir bank).getLsbD i = true ∧
        PinCall.digitalRead (digitalPin bank i) true ∈ t.pinTrace)) ∧
      (s.dir bank = 0#8 → b = 0#8 ∧ t.pinTrace = [])) ∧
  (∀ (bank : Byte) (s : State), bank ≠ 0#8 → bank ≠ 1#8 → (respondDigital bank s).response = s.response ++ [0x00#8])

/-- 42_read_dispatch.md R173, whole: while SEL is AnalogChannel k a master read makes exactly one `AnalogRead` of the
channel's pin and is answered `[0x00, 0x00, s[9:8], s[7:0]]`; the masks are neither read nor written. -/
def Obligations.AnalogReadsAnswerFourBytesBigEndian : Prop :=
  ∀ (k : Fin 6) (s : State) (n : Nat) (rest : List Event), s.inbox = .request n :: rest → s.sel.toNat = k.val + 2 →
    ∃ (t : State) (v : BitVec 10), step s = .next t ∧
      v = s.oracle.nextAnalog.1 ∧
      t.pinTrace = [.analogRead ([23, 24, 25, 26, 29, 30].getD k.val 0) v] ∧
      t.response = [0x00#8, 0x00#8, BitVec.ofNat 8 (v.toNat / 256), BitVec.ofNat 8 (v.toNat % 256)] ∧
      t.regs = s.regs ∧ t.diagTrace = [] ∧ t.inbox = rest ∧
      ∀ a b, step { s with dirA := a, dirB := b } = .next { t with dirA := a, dirB := b }

/-- 42_read_dispatch.md, the request event: whatever the state, a master read completes, writes no register, reports
nothing, and its response has 1 byte while SEL is DA or DB and 4 bytes otherwise. -/
def Obligations.ResponseLengthIsSetBySelAlone : Prop :=
  ∀ (s : State) (n : Nat) (rest : List Event), s.inbox = .request n :: rest →
    ∃ t, step s = .next t ∧ t.regs = s.regs ∧ t.params = s.params ∧ t.inbox = rest ∧ t.rx = s.rx ∧ t.diagTrace = [] ∧
      t.response.length = (if s.sel.toNat ≤ 1 then 1 else 4)

/-- 42_read_dispatch.md, unreachable selector: a selector value outside the enumeration raises UnreachableReadState and
writes nothing; under the 3-bit encoding (the spec's decision D2) no event records that error. -/
def Obligations.UnreachableSelectorWritesNothing : Prop :=
  (∀ (code : Nat) (s : State), 8 ≤ code →
    dispatchCode code s = { s with diagTrace := s.diagTrace ++ [.error (.unreachableReadState code)] }) ∧
  (∀ (code : Nat) (s t : State), s.inbox ≠ [] → step s = .next t →
    DiagEvent.error (.unreachableReadState code) ∉ t.diagTrace)

/-- 20_memory.md, transmit interface (the spec's decision D12; the fill is a free value, log 6): a master that reads n
bytes gets n bytes, the response's first n, or the whole response and then fill bytes. -/
def Obligations.MasterReceivesResponseThenFill : Prop :=
  ∀ (s : State) (n : Nat) (rest : List Event), s.inbox = .request n :: rest →
    ∃ (t : State) (fill : List Byte), step s = .next t ∧ t.masterRx.length = n ∧
      t.masterRx = t.response.take n ++ fill ∧ fill.length = n - t.response.length ∧
      (s.oracle.fill.length ≥ fill.length → fill = s.oracle.fill.take fill.length)

/-- 42_read_dispatch.md, reads are repeatable but not cached: a second read with nothing between makes the same calls
again, on the same pins in the same order, and has a response of the same length. -/
def Obligations.EachReadSamplesAgain : Prop :=
  ∀ (s : State) (n m : Nat) (rest : List Event), s.inbox = .request n :: .request m :: rest →
    ∃ t u, step s = .next t ∧ step t = .next u ∧ u.pinTrace.map PinCall.pin = t.pinTrace.map PinCall.pin ∧
      u.response.length = t.response.length ∧ u.regs = s.regs

/-! Receive events -/

/-- A step runs the decoded instruction: when the next event is a message that decodes to `i`, the step is `exec i` on the
state with the event taken, the outputs of the event before dropped (the model's choice, log 9) and the unconsumed bytes
pending, followed by the discard of those bytes. -/
def Obligations.StepRunsTheDecodedInstruction : Prop :=
  ∀ (s : State) (message unconsumed : List Byte) (rest : List Event) (i : Instr),
    s.inbox = .receive message :: rest → decode message = .command i unconsumed →
    ∃ t,
      exec i { s with inbox := rest, rx := unconsumed, pinTrace := [], diagTrace := [], response := [], masterRx := [] } =
        .next t ∧
      step s = .next { t with rx := [] }

/-- 41_decoder.md, invalid length: a message of 0 or more than 2 bytes is drained, every byte echoed in order, then
InvalidMessageLength(RxCount) is raised; no pin is called, no register written. Echoes before the error: the spec's
decision D21. -/
def Obligations.BadLengthIsDrainedAndRejected : Prop :=
  ∀ (s : State) (message : List Byte) (rest : List Event), s.inbox = .receive message :: rest →
    message.length ≠ 1 → message.length ≠ 2 → message.length ≤ s.params.rxCapacity →
    step s = .next { s with
      inbox := rest, rx := [], pinTrace := [], response := [], masterRx := []
      diagTrace := message.map DiagEvent.echo ++ [.error (.invalidMessageLength message.length)] }

/-- 30_encoding.md R76 and 60_exceptions.md R202, whole: the 244 bytes of the four ranges are illegal, every other byte is
in the table; a message of length 1 or 2 whose byte 0 is illegal records UnknownOpcode with that byte, changes nothing,
does not consume byte 1, and the block is live for the next event. -/
def Obligations.IllegalOpcodesAreReportedAndIgnored : Prop :=
  ((List.range 256).filter fun v => illegalOpcode (BitVec.ofNat 8 v)).length = 244 ∧
  (∀ op : Byte, illegalOpcode op = false ↔ op ∈ argumentOpcodes ∨ op ∈ selectOpcodes) ∧
  (∀ (s : State) (op : Byte) (tail : List Byte) (rest : List Event), illegalOpcode op = true → tail.length ≤ 1 →
    s.inbox = .receive (op :: tail) :: rest →
    decode (op :: tail) = .rejected (.unknownOpcode op) tail ∧
    step s = .next { s with
      inbox := rest, rx := [], pinTrace := [], response := [], masterRx := []
      diagTrace := [.error (.unknownOpcode op)] })

/-- 41_decoder.md, argument fetch: an argument opcode raises TruncatedArgument exactly when the message has 1 byte;
nothing is called or written. -/
def Obligations.MissingArgumentIsReported : Prop :=
  (∀ (s : State) (op : Byte) (rest : List Event), op ∈ argumentOpcodes → s.inbox = .receive [op] :: rest →
    step s = .next { s with
      inbox := rest, rx := [], pinTrace := [], response := [], masterRx := []
      diagTrace := [.error (.truncatedArgument op)] }) ∧
  (∀ (message tail : List Byte) (op : Byte),
    decode message = .rejected (.truncatedArgument op) tail ↔ message = [op] ∧ op ∈ argumentOpcodes ∧ tail = [])

/-- 41_decoder.md, end of event (the spec's decision D9): a byte after a select opcode is discarded without an error; the
step is the same as for the opcode alone. -/
def Obligations.ByteAfterSelectIsDiscarded : Prop :=
  ∀ (s : State) (op x : Byte) (rest : List Event), op ∈ selectOpcodes →
    ∃ t, step { s with inbox := .receive [op, x] :: rest } = .next t ∧
      step { s with inbox := .receive [op] :: rest } = .next t ∧ t.diagTrace = [] ∧ t.rx = []

/-- 60_exceptions.md, precedence: the errors a receive event records are exactly those of the precedence table: the
length first, then the opcode, then the argument, and never more than one. -/
def Obligations.ErrorsFollowThePrecedenceTable : Prop :=
  ∀ (s : State) (message : List Byte) (rest : List Event), s.inbox = .receive message :: rest →
    message.length ≤ s.params.rxCapacity →
    ∃ t, step s = .next t ∧ t.diagTrace.filter DiagEvent.isError = errorsOf message

/-- 41_decoder.md, state on an error path, and 60_exceptions.md, precision: an event that records an error writes no
register and calls no pin. -/
def Obligations.AnErrorChangesNoRegisterAndCallsNoPin : Prop :=
  ∀ s t : State, s.inbox ≠ [] → step s = .next t → t.diagTrace.any DiagEvent.isError = true →
    t.regs = s.regs ∧ t.pinTrace = [] ∧ t.response = []

/-- 20_memory.md, reads have side effects: a receive event never reads a pin, draws nothing from the environment and
produces no response. -/
def Obligations.ReceiveEventsNeverReadAPin : Prop :=
  ∀ (s : State) (message : List Byte) (rest : List Event), s.inbox = .receive message :: rest →
    message.length ≤ s.params.rxCapacity →
    ∃ t, step s = .next t ∧ t.oracle = s.oracle ∧ t.pinTrace.all PinCall.isOutward = true ∧ t.response = [] ∧
      t.masterRx = [] ∧ t.inbox = rest

/-- 70_reset_and_hazards.md, a command cannot be split: `[op]` with its argument missing leaves the next message to be
decoded afresh, as if the first had never come. -/
def Obligations.ASplitCommandIsTwoMessages : Prop :=
  ∀ (s : State) (op : Byte) (message : List Byte) (rest : List Event), op ∈ argumentOpcodes →
    s.inbox = .receive [op] :: .receive message :: rest →
    ∃ t, step s = .next t ∧ t.diagTrace = [.error (.truncatedArgument op)] ∧
      step t = step { s with inbox := .receive message :: rest }

/-- 70_reset_and_hazards.md, no output latch: the data byte of an OUT command leaves no trace in what a later configure
does; only the pins driven at the OUT itself differ. -/
def Obligations.OutDataIsForgotten : Prop :=
  ∀ (s : State) (op cfg mask d d' : Byte) (rest : List Event), op = 0x14#8 ∨ op = 0x15#8 → cfg = 0x00#8 ∨ cfg = 0x01#8 →
    ∃ u, (Host.Core.run Sys2Proof.core 2 { s with inbox := .receive [op, d] :: .receive [cfg, mask] :: rest }) = .next u ∧
      (Host.Core.run Sys2Proof.core 2 { s with inbox := .receive [op, d'] :: .receive [cfg, mask] :: rest }) = .next u ∧
      ∀ p v, PinCall.digitalWrite p v ∉ u.pinTrace

/-! Whole-machine rules -/

/-- 10_state.md, access summary: a mask or SEL changes only at the command that writes it, or at a power cycle. -/
def Obligations.RegistersChangeOnlyAtTheirCommands : Prop :=
  ∀ s t : State, step s = .next t → s.inbox.head?.any Event.isPowerCycle = false →
    (t.dirA ≠ s.dirA → ∃ m, s.inbox.head? = some (.receive [0x00#8, m])) ∧
    (t.dirB ≠ s.dirB → ∃ m, s.inbox.head? = some (.receive [0x01#8, m])) ∧
    (t.sel ≠ s.sel → ∃ op tail, op ∈ selectOpcodes ∧ tail.length ≤ 1 ∧ s.inbox.head? = some (.receive (op :: tail)))

/-- Every step keeps the record invariant: no byte outlives its event, responses have 0, 1 or 4 bytes, every pin call is
on a mapped pin, an event records at most one error and then calls no pin and answers nothing. -/
def Obligations.EveryStepKeepsTheRecordInvariant : Prop :=
  ∀ s t : State, s.RecordOk → step s = .next t → t.RecordOk

/-- The record invariant holds after power-on, whatever the parameters and the reset draws. -/
def Obligations.PowerOnMeetsTheRecordInvariant : Prop :=
  ∀ (p : Params) (a : BitVec 8) (b : BitVec 4), (State.powerOn p a b).RecordOk

/-- A run refines the register table of 10_state.md and 30_encoding.md: if every waiting event can be delivered, any
number of steps completes, and DIR_A, DIR_B and SEL are what folding the table over the events handled gives, whatever
the pins, the traces and the environment hold. -/
def Obligations.RunsRefineTheRegisterTable : Prop :=
  ∀ (k : Nat) (s : State), s.inbox.all (Event.deliverable s.params) = true →
    ∃ t, Host.Core.run Sys2Proof.core k s = .next t ∧ t.regs = (s.inbox.take k).foldl Regs.after s.regs ∧ t.inbox = s.inbox.drop k ∧
      t.params = s.params

/-- 70_reset_and_hazards.md, selector persistence (codes: the spec's decision D2): after any run of deliverable
transactions from power-on, SEL is the code of the most recent select command, or DigitalBankA if there was none. -/
def Obligations.SelectorIsTheMostRecentSelect : Prop :=
  ∀ (p : Params) (a : BitVec 8) (b : BitVec 4) (events : List Event), events.all (Event.deliverable p) = true →
    events.any Event.isPowerCycle = false →
    ∃ t, Host.Core.run Sys2Proof.core events.length { State.powerOn p a b with inbox := events } = .next t ∧
      t.sel = ((events.filterMap selectedCode).getLast?).getD 0#3

/-! Encoding -/

/-- 30_encoding.md: decoding a message gives a command and unconsumed bytes exactly when the message is that command's
encoding followed by those bytes and has at most 2 bytes; so no bit of an encoding is dropped and no other message runs
a command. -/
def Obligations.DecodeInvertsEncode : Prop :=
  ∀ (message unconsumed : List Byte) (i : Instr),
    decode message = .command i unconsumed ↔ message = encode i ++ unconsumed ∧ message.length ≤ 2

/-- Words written out from 30_encoding.md's opcode map, bit by bit, decode to their commands. -/
def Obligations.SampleWordsDecode : Prop :=
  decode [0b00000000#8, 0b10100101#8] = .command (.cfgA 0xA5#8) [] ∧
  decode [0b00000001#8, 0b00001010#8] = .command (.cfgB 0x0A#8) [] ∧
  decode [0b00010100#8, 0b11111111#8] = .command (.outA 0xFF#8) [] ∧
  decode [0b00010101#8, 0b11110101#8] = .command (.outB 0xF5#8) [] ∧
  decode [0b00010011#8] = .command .selDB [] ∧
  decode [0b00100110#8] = .command .selAN4 [] ∧
  decode [0b00100111#8, 0b01110111#8] = .command .selAN5 [0x77#8]

/-- 30_encoding.md R75, whole: the decode of byte 0 is total and returns one of the five classes, as listed; a message
that runs a command has that command's class. -/
def Obligations.ByteZeroHasOneOfFiveClasses : Prop :=
  (∀ (op : Byte) (tail u : List Byte) (i : Instr), decode (op :: tail) = .command i u → classify op = classOf i) ∧
  ∀ op : Byte,
    (∀ b : Fin 2, classify op = .configureBank b ↔ op.toNat = b.val) ∧
    (∀ b : Fin 2, classify op = .setOutput b ↔ op.toNat = 0x14 + b.val) ∧
    (∀ b : Fin 2, classify op = .selectDigitalRead b ↔ op.toNat = 0x12 + b.val) ∧
    (∀ k : Fin 6, classify op = .selectAnalogRead k ↔ op.toNat = [0x20, 0x21, 0x22, 0x23, 0x26, 0x27].getD k.val 0) ∧
    (classify op = .unknown ↔ illegalOpcode op = true)

/-- The opcode table's own numbering (log 10, the model's choice): a row's bits of at most two bytes that decode to an
instruction, stored as the next message, are what the next step runs. -/
def Obligations.AFetchedTableWordRuns : Prop :=
  ∀ (s : State) (nbits w : Nat) (i : Instr), decodeTableWord nbits w = some i →
    ∃ (unconsumed : List Byte) (t : State),
      exec i { s with rx := unconsumed, pinTrace := [], diagTrace := [], response := [], masterRx := [] } = .next t ∧
      step (s.withFetchWord nbits w) = .next { t with rx := [] }

/-- 30_encoding.md, assembly syntax (the spec's decision D13): an argument mnemonic takes a literal in 0..255 and
assembles to `[op, imm8]`, a value outside is refused; a select mnemonic takes none and assembles to `[op]`. -/
def Obligations.AssemblerAcceptsExactlyEightBitOperands : Prop :=
  (∀ (m : Mnemonic) (n : Nat), transactionOf (.cmd m (some n)) =
    if n < 256 then
      match m with
      | .cfgA => some (.write 0x40#7 [0x00#8, BitVec.ofNat 8 n])
      | .cfgB => some (.write 0x40#7 [0x01#8, BitVec.ofNat 8 n])
      | .outA => some (.write 0x40#7 [0x14#8, BitVec.ofNat 8 n])
      | .outB => some (.write 0x40#7 [0x15#8, BitVec.ofNat 8 n])
      | .selDA | .selDB | .selAN0 | .selAN1 | .selAN2 | .selAN3 | .selAN4 | .selAN5 => none
    else none) ∧
  (∀ m : Mnemonic, transactionOf (.cmd m none) =
    match m with
    | .selDA => some (.write 0x40#7 [0x12#8])
    | .selDB => some (.write 0x40#7 [0x13#8])
    | .selAN0 => some (.write 0x40#7 [0x20#8])
    | .selAN1 => some (.write 0x40#7 [0x21#8])
    | .selAN2 => some (.write 0x40#7 [0x22#8])
    | .selAN3 => some (.write 0x40#7 [0x23#8])
    | .selAN4 => some (.write 0x40#7 [0x26#8])
    | .selAN5 => some (.write 0x40#7 [0x27#8])
    | .cfgA | .cfgB | .outA | .outB => none)

/-! Reset, waiting, and what the transport does not deliver -/

/-- 10_state.md, reset values, and 70_reset_and_hazards.md, reset: after power-on SEL is DigitalBankA, the masks are the
two draws (every value; the spec's decision D3), no message and no response exist, no pin was called and nothing was
reported; the block then waits (the model's choice, log 2). -/
def Obligations.PowerOnLeavesTheResetValues : Prop :=
  ∀ (p : Params) (a : BitVec 8) (b : BitVec 4),
    let s := State.powerOn p a b
    s.sel = 0#3 ∧ s.dirA = a ∧ s.dirB = b ∧ s.rx = [] ∧ s.response = [] ∧ s.pinTrace = [] ∧ s.diagTrace = [] ∧
    s.inbox = [] ∧ step s = .next s

/-- 70_reset_and_hazards.md, reset, and 60_exceptions.md, power states (a power cycle as an event that leaves the
environment alone is the model's choice, log 8): all register state is lost, the reset values apply, and no pin is
called. -/
def Obligations.PowerCycleLosesAllRegisters : Prop :=
  ∀ (s : State) (a : BitVec 8) (b : BitVec 4) (rest : List Event), s.inbox = .powerCycle a b :: rest →
    step s = .next { State.powerOn s.params a b with inbox := rest, oracle := s.oracle }

/-- 20_memory.md, bus address space (the spec's decision D14; log 13): a transaction to 0x40 adds its one event after
those waiting, a transaction to another address adds nothing. -/
def Obligations.OnlyAddress0x40ReachesTheBlock : Prop :=
  ∀ (s : State) (addr : BitVec 7) (bytes : List Byte) (n : Nat),
    s.submit [.write addr bytes] = { s with inbox := s.inbox ++ if addr = 0x40#7 then [.receive bytes] else [] } ∧
    s.submit [.read addr n] = { s with inbox := s.inbox ++ if addr = 0x40#7 then [.request n] else [] }

/-- 20_memory.md, receive interface (log 7): a message longer than RX_CAPACITY, which the transport does not deliver, is
refused by name; it is the only event on which a step does not complete. -/
def Obligations.OnlyOverlongMessagesStop : Prop :=
  ∀ s : State,
    (∀ (message : List Byte) (rest : List Event), s.inbox = .receive message :: rest →
      s.params.rxCapacity < message.length → step s = .refused (.aboveRxCapacity message.length)) ∧
    (s.inbox.head?.all (Event.deliverable s.params) = true → ∃ t, step s = .next t)
end

