-- ==== Sys2Proof/Laws/State.lean ====
section
/-! SUPPORT. One lemma per field per update of State, so that no later proof unfolds a record update. -/

namespace Sys2Proof.Machine

@[simp] theorem State.select_dirA (s : State) (x : ReadSelector) : (s.select x).dirA = s.dirA := rfl
@[simp] theorem State.select_dirB (s : State) (x : ReadSelector) : (s.select x).dirB = s.dirB := rfl
@[simp] theorem State.select_sel (s : State) (x : ReadSelector) : (s.select x).sel = BitVec.ofNat 3 x.code := rfl
@[simp] theorem State.select_rx (s : State) (x : ReadSelector) : (s.select x).rx = s.rx := rfl
@[simp] theorem State.select_response (s : State) (x : ReadSelector) : (s.select x).response = s.response := rfl
@[simp] theorem State.select_pinTrace (s : State) (x : ReadSelector) : (s.select x).pinTrace = s.pinTrace := rfl
@[simp] theorem State.select_diagTrace (s : State) (x : ReadSelector) : (s.select x).diagTrace = s.diagTrace := rfl
@[simp] theorem State.select_masterRx (s : State) (x : ReadSelector) : (s.select x).masterRx = s.masterRx := rfl
@[simp] theorem State.select_inbox (s : State) (x : ReadSelector) : (s.select x).inbox = s.inbox := rfl
@[simp] theorem State.select_oracle (s : State) (x : ReadSelector) : (s.select x).oracle = s.oracle := rfl
@[simp] theorem State.select_params (s : State) (x : ReadSelector) : (s.select x).params = s.params := rfl

@[simp] theorem State.callPins_dirA (s : State) (cs : List PinCall) : (s.callPins cs).dirA = s.dirA := rfl
@[simp] theorem State.callPins_dirB (s : State) (cs : List PinCall) : (s.callPins cs).dirB = s.dirB := rfl
@[simp] theorem State.callPins_sel (s : State) (cs : List PinCall) : (s.callPins cs).sel = s.sel := rfl
@[simp] theorem State.callPins_rx (s : State) (cs : List PinCall) : (s.callPins cs).rx = s.rx := rfl
@[simp] theorem State.callPins_response (s : State) (cs : List PinCall) : (s.callPins cs).response = s.response := rfl
@[simp] theorem State.callPins_pinTrace (s : State) (cs : List PinCall) :
    (s.callPins cs).pinTrace = s.pinTrace ++ cs := rfl
@[simp] theorem State.callPins_diagTrace (s : State) (cs : List PinCall) :
    (s.callPins cs).diagTrace = s.diagTrace := rfl
@[simp] theorem State.callPins_masterRx (s : State) (cs : List PinCall) : (s.callPins cs).masterRx = s.masterRx := rfl
@[simp] theorem State.callPins_inbox (s : State) (cs : List PinCall) : (s.callPins cs).inbox = s.inbox := rfl
@[simp] theorem State.callPins_oracle (s : State) (cs : List PinCall) : (s.callPins cs).oracle = s.oracle := rfl
@[simp] theorem State.callPins_params (s : State) (cs : List PinCall) : (s.callPins cs).params = s.params := rfl

@[simp] theorem State.diag_dirA (s : State) (ev : DiagEvent) : (s.diag ev).dirA = s.dirA := rfl
@[simp] theorem State.diag_dirB (s : State) (ev : DiagEvent) : (s.diag ev).dirB = s.dirB := rfl
@[simp] theorem State.diag_sel (s : State) (ev : DiagEvent) : (s.diag ev).sel = s.sel := rfl
@[simp] theorem State.diag_rx (s : State) (ev : DiagEvent) : (s.diag ev).rx = s.rx := rfl
@[simp] theorem State.diag_response (s : State) (ev : DiagEvent) : (s.diag ev).response = s.response := rfl
@[simp] theorem State.diag_pinTrace (s : State) (ev : DiagEvent) : (s.diag ev).pinTrace = s.pinTrace := rfl
@[simp] theorem State.diag_diagTrace (s : State) (ev : DiagEvent) : (s.diag ev).diagTrace = s.diagTrace ++ [ev] := rfl
@[simp] theorem State.diag_masterRx (s : State) (ev : DiagEvent) : (s.diag ev).masterRx = s.masterRx := rfl
@[simp] theorem State.diag_inbox (s : State) (ev : DiagEvent) : (s.diag ev).inbox = s.inbox := rfl
@[simp] theorem State.diag_oracle (s : State) (ev : DiagEvent) : (s.diag ev).oracle = s.oracle := rfl
@[simp] theorem State.diag_params (s : State) (ev : DiagEvent) : (s.diag ev).params = s.params := rfl

@[simp] theorem State.raise_dirA (s : State) (e : BlockError) : (s.raise e).dirA = s.dirA := rfl
@[simp] theorem State.raise_dirB (s : State) (e : BlockError) : (s.raise e).dirB = s.dirB := rfl
@[simp] theorem State.raise_sel (s : State) (e : BlockError) : (s.raise e).sel = s.sel := rfl
@[simp] theorem State.raise_rx (s : State) (e : BlockError) : (s.raise e).rx = s.rx := rfl
@[simp] theorem State.raise_response (s : State) (e : BlockError) : (s.raise e).response = s.response := rfl
@[simp] theorem State.raise_pinTrace (s : State) (e : BlockError) : (s.raise e).pinTrace = s.pinTrace := rfl
@[simp] theorem State.raise_diagTrace (s : State) (e : BlockError) :
    (s.raise e).diagTrace = s.diagTrace ++ [.error e] := rfl
@[simp] theorem State.raise_masterRx (s : State) (e : BlockError) : (s.raise e).masterRx = s.masterRx := rfl
@[simp] theorem State.raise_inbox (s : State) (e : BlockError) : (s.raise e).inbox = s.inbox := rfl
@[simp] theorem State.raise_oracle (s : State) (e : BlockError) : (s.raise e).oracle = s.oracle := rfl
@[simp] theorem State.raise_params (s : State) (e : BlockError) : (s.raise e).params = s.params := rfl

@[simp] theorem State.txBytes_dirA (s : State) (bs : List Byte) : (s.txBytes bs).dirA = s.dirA := rfl
@[simp] theorem State.txBytes_dirB (s : State) (bs : List Byte) : (s.txBytes bs).dirB = s.dirB := rfl
@[simp] theorem State.txBytes_sel (s : State) (bs : List Byte) : (s.txBytes bs).sel = s.sel := rfl
@[simp] theorem State.txBytes_rx (s : State) (bs : List Byte) : (s.txBytes bs).rx = s.rx := rfl
@[simp] theorem State.txBytes_response (s : State) (bs : List Byte) :
    (s.txBytes bs).response = s.response ++ bs := rfl
@[simp] theorem State.txBytes_pinTrace (s : State) (bs : List Byte) : (s.txBytes bs).pinTrace = s.pinTrace := rfl
@[simp] theorem State.txBytes_diagTrace (s : State) (bs : List Byte) : (s.txBytes bs).diagTrace = s.diagTrace := rfl
@[simp] theorem State.txBytes_masterRx (s : State) (bs : List Byte) : (s.txBytes bs).masterRx = s.masterRx := rfl
@[simp] theorem State.txBytes_inbox (s : State) (bs : List Byte) : (s.txBytes bs).inbox = s.inbox := rfl
@[simp] theorem State.txBytes_oracle (s : State) (bs : List Byte) : (s.txBytes bs).oracle = s.oracle := rfl
@[simp] theorem State.txBytes_params (s : State) (bs : List Byte) : (s.txBytes bs).params = s.params := rfl

@[simp] theorem State.digitalRead_dirA (s : State) (p : Nat) : (s.digitalRead p).2.dirA = s.dirA := rfl
@[simp] theorem State.digitalRead_dirB (s : State) (p : Nat) : (s.digitalRead p).2.dirB = s.dirB := rfl
@[simp] theorem State.digitalRead_sel (s : State) (p : Nat) : (s.digitalRead p).2.sel = s.sel := rfl
@[simp] theorem State.digitalRead_rx (s : State) (p : Nat) : (s.digitalRead p).2.rx = s.rx := rfl
@[simp] theorem State.digitalRead_response (s : State) (p : Nat) : (s.digitalRead p).2.response = s.response := rfl
@[simp] theorem State.digitalRead_pinTrace (s : State) (p : Nat) :
    (s.digitalRead p).2.pinTrace = s.pinTrace ++ [.digitalRead p s.oracle.nextDigital.1] := rfl
@[simp] theorem State.digitalRead_diagTrace (s : State) (p : Nat) : (s.digitalRead p).2.diagTrace = s.diagTrace := rfl
@[simp] theorem State.digitalRead_masterRx (s : State) (p : Nat) : (s.digitalRead p).2.masterRx = s.masterRx := rfl
@[simp] theorem State.digitalRead_inbox (s : State) (p : Nat) : (s.digitalRead p).2.inbox = s.inbox := rfl
@[simp] theorem State.digitalRead_oracle (s : State) (p : Nat) :
    (s.digitalRead p).2.oracle = s.oracle.nextDigital.2 := rfl
@[simp] theorem State.digitalRead_params (s : State) (p : Nat) : (s.digitalRead p).2.params = s.params := rfl

@[simp] theorem State.analogRead_dirA (s : State) (p : Nat) : (s.analogRead p).2.dirA = s.dirA := rfl
@[simp] theorem State.analogRead_dirB (s : State) (p : Nat) : (s.analogRead p).2.dirB = s.dirB := rfl
@[simp] theorem State.analogRead_sel (s : State) (p : Nat) : (s.analogRead p).2.sel = s.sel := rfl
@[simp] theorem State.analogRead_rx (s : State) (p : Nat) : (s.analogRead p).2.rx = s.rx := rfl
@[simp] theorem State.analogRead_response (s : State) (p : Nat) : (s.analogRead p).2.response = s.response := rfl
@[simp] theorem State.analogRead_pinTrace (s : State) (p : Nat) :
    (s.analogRead p).2.pinTrace = s.pinTrace ++ [.analogRead p s.oracle.nextAnalog.1] := rfl
@[simp] theorem State.analogRead_diagTrace (s : State) (p : Nat) : (s.analogRead p).2.diagTrace = s.diagTrace := rfl
@[simp] theorem State.analogRead_masterRx (s : State) (p : Nat) : (s.analogRead p).2.masterRx = s.masterRx := rfl
@[simp] theorem State.analogRead_inbox (s : State) (p : Nat) : (s.analogRead p).2.inbox = s.inbox := rfl
@[simp] theorem State.analogRead_oracle (s : State) (p : Nat) :
    (s.analogRead p).2.oracle = s.oracle.nextAnalog.2 := rfl
@[simp] theorem State.analogRead_params (s : State) (p : Nat) : (s.analogRead p).2.params = s.params := rfl

@[simp] theorem State.beginEvent_dirA (s : State) (es : List Event) : (s.beginEvent es).dirA = s.dirA := rfl
@[simp] theorem State.beginEvent_dirB (s : State) (es : List Event) : (s.beginEvent es).dirB = s.dirB := rfl
@[simp] theorem State.beginEvent_sel (s : State) (es : List Event) : (s.beginEvent es).sel = s.sel := rfl
@[simp] theorem State.beginEvent_rx (s : State) (es : List Event) : (s.beginEvent es).rx = s.rx := rfl
@[simp] theorem State.beginEvent_response (s : State) (es : List Event) : (s.beginEvent es).response = [] := rfl
@[simp] theorem State.beginEvent_pinTrace (s : State) (es : List Event) : (s.beginEvent es).pinTrace = [] := rfl
@[simp] theorem State.beginEvent_diagTrace (s : State) (es : List Event) : (s.beginEvent es).diagTrace = [] := rfl
@[simp] theorem State.beginEvent_masterRx (s : State) (es : List Event) : (s.beginEvent es).masterRx = [] := rfl
@[simp] theorem State.beginEvent_inbox (s : State) (es : List Event) : (s.beginEvent es).inbox = es := rfl
@[simp] theorem State.beginEvent_oracle (s : State) (es : List Event) : (s.beginEvent es).oracle = s.oracle := rfl
@[simp] theorem State.beginEvent_params (s : State) (es : List Event) : (s.beginEvent es).params = s.params := rfl

@[simp] theorem State.withRx_dirA (s : State) (bs : List Byte) : (s.withRx bs).dirA = s.dirA := rfl
@[simp] theorem State.withRx_dirB (s : State) (bs : List Byte) : (s.withRx bs).dirB = s.dirB := rfl
@[simp] theorem State.withRx_sel (s : State) (bs : List Byte) : (s.withRx bs).sel = s.sel := rfl
@[simp] theorem State.withRx_rx (s : State) (bs : List Byte) : (s.withRx bs).rx = bs := rfl
@[simp] theorem State.withRx_response (s : State) (bs : List Byte) : (s.withRx bs).response = s.response := rfl
@[simp] theorem State.withRx_pinTrace (s : State) (bs : List Byte) : (s.withRx bs).pinTrace = s.pinTrace := rfl
@[simp] theorem State.withRx_diagTrace (s : State) (bs : List Byte) : (s.withRx bs).diagTrace = s.diagTrace := rfl
@[simp] theorem State.withRx_masterRx (s : State) (bs : List Byte) : (s.withRx bs).masterRx = s.masterRx := rfl
@[simp] theorem State.withRx_inbox (s : State) (bs : List Byte) : (s.withRx bs).inbox = s.inbox := rfl
@[simp] theorem State.withRx_oracle (s : State) (bs : List Byte) : (s.withRx bs).oracle = s.oracle := rfl
@[simp] theorem State.withRx_params (s : State) (bs : List Byte) : (s.withRx bs).params = s.params := rfl

@[simp] theorem State.endReceive_dirA (s : State) : s.endReceive.dirA = s.dirA := rfl
@[simp] theorem State.endReceive_dirB (s : State) : s.endReceive.dirB = s.dirB := rfl
@[simp] theorem State.endReceive_sel (s : State) : s.endReceive.sel = s.sel := rfl
@[simp] theorem State.endReceive_rx (s : State) : s.endReceive.rx = [] := rfl
@[simp] theorem State.endReceive_response (s : State) : s.endReceive.response = s.response := rfl
@[simp] theorem State.endReceive_pinTrace (s : State) : s.endReceive.pinTrace = s.pinTrace := rfl
@[simp] theorem State.endReceive_diagTrace (s : State) : s.endReceive.diagTrace = s.diagTrace := rfl
@[simp] theorem State.endReceive_masterRx (s : State) : s.endReceive.masterRx = s.masterRx := rfl
@[simp] theorem State.endReceive_inbox (s : State) : s.endReceive.inbox = s.inbox := rfl
@[simp] theorem State.endReceive_oracle (s : State) : s.endReceive.oracle = s.oracle := rfl
@[simp] theorem State.endReceive_params (s : State) : s.endReceive.params = s.params := rfl

@[simp] theorem State.drain_dirA (s : State) : s.drain.dirA = s.dirA := rfl
@[simp] theorem State.drain_dirB (s : State) : s.drain.dirB = s.dirB := rfl
@[simp] theorem State.drain_sel (s : State) : s.drain.sel = s.sel := rfl
@[simp] theorem State.drain_rx (s : State) : s.drain.rx = [] := rfl
@[simp] theorem State.drain_response (s : State) : s.drain.response = s.response := rfl
@[simp] theorem State.drain_pinTrace (s : State) : s.drain.pinTrace = s.pinTrace := rfl
@[simp] theorem State.drain_diagTrace (s : State) : s.drain.diagTrace = s.diagTrace ++ s.rx.map .echo := rfl
@[simp] theorem State.drain_masterRx (s : State) : s.drain.masterRx = s.masterRx := rfl
@[simp] theorem State.drain_inbox (s : State) : s.drain.inbox = s.inbox := rfl
@[simp] theorem State.drain_oracle (s : State) : s.drain.oracle = s.oracle := rfl
@[simp] theorem State.drain_params (s : State) : s.drain.params = s.params := rfl

@[simp] theorem State.masterReads_dirA (s : State) (n : Nat) : (s.masterReads n).dirA = s.dirA := rfl
@[simp] theorem State.masterReads_dirB (s : State) (n : Nat) : (s.masterReads n).dirB = s.dirB := rfl
@[simp] theorem State.masterReads_sel (s : State) (n : Nat) : (s.masterReads n).sel = s.sel := rfl
@[simp] theorem State.masterReads_rx (s : State) (n : Nat) : (s.masterReads n).rx = s.rx := rfl
@[simp] theorem State.masterReads_response (s : State) (n : Nat) : (s.masterReads n).response = s.response := rfl
@[simp] theorem State.masterReads_pinTrace (s : State) (n : Nat) : (s.masterReads n).pinTrace = s.pinTrace := rfl
@[simp] theorem State.masterReads_diagTrace (s : State) (n : Nat) : (s.masterReads n).diagTrace = s.diagTrace := rfl
@[simp] theorem State.masterReads_masterRx (s : State) (n : Nat) :
    (s.masterReads n).masterRx = s.response.take n ++ (s.oracle.fillBytes (n - s.response.length)).1 := rfl
@[simp] theorem State.masterReads_inbox (s : State) (n : Nat) : (s.masterReads n).inbox = s.inbox := rfl
@[simp] theorem State.masterReads_oracle (s : State) (n : Nat) :
    (s.masterReads n).oracle = (s.oracle.fillBytes (n - s.response.length)).2 := rfl
@[simp] theorem State.masterReads_params (s : State) (n : Nat) : (s.masterReads n).params = s.params := rfl

@[simp] theorem State.powerCycle_dirA (s : State) (a : BitVec 8) (b : BitVec 4) : (s.powerCycle a b).dirA = a := rfl
@[simp] theorem State.powerCycle_dirB (s : State) (a : BitVec 8) (b : BitVec 4) : (s.powerCycle a b).dirB = b := rfl
@[simp] theorem State.powerCycle_sel (s : State) (a : BitVec 8) (b : BitVec 4) : (s.powerCycle a b).sel = 0#3 := rfl
@[simp] theorem State.powerCycle_rx (s : State) (a : BitVec 8) (b : BitVec 4) : (s.powerCycle a b).rx = [] := rfl
@[simp] theorem State.powerCycle_response (s : State) (a : BitVec 8) (b : BitVec 4) :
    (s.powerCycle a b).response = [] := rfl
@[simp] theorem State.powerCycle_pinTrace (s : State) (a : BitVec 8) (b : BitVec 4) :
    (s.powerCycle a b).pinTrace = [] := rfl
@[simp] theorem State.powerCycle_diagTrace (s : State) (a : BitVec 8) (b : BitVec 4) :
    (s.powerCycle a b).diagTrace = [] := rfl
@[simp] theorem State.powerCycle_masterRx (s : State) (a : BitVec 8) (b : BitVec 4) :
    (s.powerCycle a b).masterRx = [] := rfl
@[simp] theorem State.powerCycle_inbox (s : State) (a : BitVec 8) (b : BitVec 4) :
    (s.powerCycle a b).inbox = s.inbox := rfl
@[simp] theorem State.powerCycle_oracle (s : State) (a : BitVec 8) (b : BitVec 4) :
    (s.powerCycle a b).oracle = s.oracle := rfl
@[simp] theorem State.powerCycle_params (s : State) (a : BitVec 8) (b : BitVec 4) :
    (s.powerCycle a b).params = s.params := rfl

@[simp] theorem State.deliverFirst_dirA (s : State) (m : List Byte) : (s.deliverFirst m).dirA = s.dirA := rfl
@[simp] theorem State.deliverFirst_dirB (s : State) (m : List Byte) : (s.deliverFirst m).dirB = s.dirB := rfl
@[simp] theorem State.deliverFirst_sel (s : State) (m : List Byte) : (s.deliverFirst m).sel = s.sel := rfl
@[simp] theorem State.deliverFirst_rx (s : State) (m : List Byte) : (s.deliverFirst m).rx = s.rx := rfl
@[simp] theorem State.deliverFirst_response (s : State) (m : List Byte) :
    (s.deliverFirst m).response = s.response := rfl
@[simp] theorem State.deliverFirst_pinTrace (s : State) (m : List Byte) :
    (s.deliverFirst m).pinTrace = s.pinTrace := rfl
@[simp] theorem State.deliverFirst_diagTrace (s : State) (m : List Byte) :
    (s.deliverFirst m).diagTrace = s.diagTrace := rfl
@[simp] theorem State.deliverFirst_masterRx (s : State) (m : List Byte) :
    (s.deliverFirst m).masterRx = s.masterRx := rfl
@[simp] theorem State.deliverFirst_inbox (s : State) (m : List Byte) :
    (s.deliverFirst m).inbox = .receive m :: s.inbox := rfl
@[simp] theorem State.deliverFirst_oracle (s : State) (m : List Byte) : (s.deliverFirst m).oracle = s.oracle := rfl
@[simp] theorem State.deliverFirst_params (s : State) (m : List Byte) : (s.deliverFirst m).params = s.params := rfl

@[simp] theorem State.setDir_sel (s : State) (bank m : Byte) : (s.setDir bank m).sel = s.sel := by
  unfold State.setDir; split <;> rfl
@[simp] theorem State.setDir_rx (s : State) (bank m : Byte) : (s.setDir bank m).rx = s.rx := by
  unfold State.setDir; split <;> rfl
@[simp] theorem State.setDir_response (s : State) (bank m : Byte) : (s.setDir bank m).response = s.response := by
  unfold State.setDir; split <;> rfl
@[simp] theorem State.setDir_pinTrace (s : State) (bank m : Byte) : (s.setDir bank m).pinTrace = s.pinTrace := by
  unfold State.setDir; split <;> rfl
@[simp] theorem State.setDir_diagTrace (s : State) (bank m : Byte) : (s.setDir bank m).diagTrace = s.diagTrace := by
  unfold State.setDir; split <;> rfl
@[simp] theorem State.setDir_masterRx (s : State) (bank m : Byte) : (s.setDir bank m).masterRx = s.masterRx := by
  unfold State.setDir; split <;> rfl
@[simp] theorem State.setDir_inbox (s : State) (bank m : Byte) : (s.setDir bank m).inbox = s.inbox := by
  unfold State.setDir; split <;> rfl
@[simp] theorem State.setDir_oracle (s : State) (bank m : Byte) : (s.setDir bank m).oracle = s.oracle := by
  unfold State.setDir; split <;> rfl
@[simp] theorem State.setDir_params (s : State) (bank m : Byte) : (s.setDir bank m).params = s.params := by
  unfold State.setDir; split <;> rfl

@[simp] theorem State.digitalRead_fst (s : State) (p : Nat) : (s.digitalRead p).1 = s.oracle.nextDigital.1 := rfl
@[simp] theorem State.analogRead_fst (s : State) (p : Nat) : (s.analogRead p).1 = s.oracle.nextAnalog.1 := rfl

/-- `DIR_A <- m` for bank 0. -/
@[simp] theorem State.setDir_bankA (s : State) (m : Byte) : s.setDir 0#8 m = { s with dirA := m } := rfl
/-- `DIR_B <- m[3:0]` for bank 1. -/
@[simp] theorem State.setDir_bankB (s : State) (m : Byte) : s.setDir 1#8 m = { s with dirB := m.extractLsb' 0 4 } := rfl
@[simp] theorem State.dir_bankA (s : State) : s.dir 0#8 = s.dirA := rfl
@[simp] theorem State.dir_bankB (s : State) : s.dir 1#8 = s.dirB.setWidth 8 := rfl

/-- Two states that agree on every field are equal. -/
theorem State.ext_fields (s t : State) (h1 : s.dirA = t.dirA) (h2 : s.dirB = t.dirB) (h3 : s.sel = t.sel) (h4 : s.rx = t.rx)
    (h5 : s.response = t.response) (h6 : s.pinTrace = t.pinTrace) (h7 : s.diagTrace = t.diagTrace)
    (h8 : s.masterRx = t.masterRx) (h9 : s.inbox = t.inbox) (h10 : s.oracle = t.oracle) (h11 : s.params = t.params) :
    s = t := by
  cases s; cases t; simp_all

end Sys2Proof.Machine
end

