-- ==== Sys2Proof/Laws/Ops.lean ====
section
/-! SUPPORT. One specification lemma per shared operation: everything it can do, stated once. -/

namespace Sys2Proof.Machine

/-! Pin calls -/

@[simp] theorem PinCall.pin_pinMode (p : Nat) (m : PinMode) : (PinCall.pinMode p m).pin = p := rfl
@[simp] theorem PinCall.pin_digitalWrite (p : Nat) (v : Bool) : (PinCall.digitalWrite p v).pin = p := rfl
@[simp] theorem PinCall.pin_digitalRead (p : Nat) (v : Bool) : (PinCall.digitalRead p v).pin = p := rfl
@[simp] theorem PinCall.pin_analogRead (p : Nat) (v : BitVec 10) : (PinCall.analogRead p v).pin = p := rfl

/-! Banks -/

theorem validBank_iff (bank : Byte) : validBank bank = true ↔ bank = 0#8 ∨ bank = 1#8 := by
  simp [validBank]

/-- A bank id is one of the two banks or invalid. -/
theorem bank_cases (bank : Byte) : bank = 0#8 ∨ bank = 1#8 ∨ validBank bank = false := by
  rcases Bool.eq_false_or_eq_true (validBank bank) with h | h
  · rcases (validBank_iff bank).1 h with h | h <;> simp [h]
  · exact .inr (.inr h)

theorem validBank_of_ne {bank : Byte} (h0 : bank ≠ 0#8) (h1 : bank ≠ 1#8) : validBank bank = false := by
  rcases bank_cases bank with h | h | h
  · exact absurd h h0
  · exact absurd h h1
  · exact h

/-! The register file -/

theorem configure_valid {bank : Byte} (h : validBank bank = true) (mask : Byte) (s : State) :
    configure bank mask s =
      ((s.callPins (configureCalls bank (reduceMask bank mask) (configureScan s.params bank))).setDir bank
        (reduceMask bank mask)).diag (.config bank (reduceMask bank mask)) := by
  simp [configure, h]

theorem configure_invalid {bank : Byte} (h : validBank bank = false) (mask : Byte) (s : State) :
    configure bank mask s = s.raise (.unknownBank bank) := by
  simp [configure, h]

theorem writeOutput_valid {bank : Byte} (h : validBank bank = true) (data : Byte) (s : State) :
    writeOutput bank data s =
      (s.callPins (writeCalls bank (s.dir bank) data (writeScan s.params bank))).diag (.write bank (s.dir bank) data) := by
  simp [writeOutput, h]

theorem writeOutput_invalid {bank : Byte} (h : validBank bank = false) (data : Byte) (s : State) :
    writeOutput bank data s = s.raise (.unknownBank bank) := by
  simp [writeOutput, h]

/-- A call of `configure` sets the mode of a scanned position. -/
theorem mem_configureCalls {bank m : Byte} {n : Nat} {c : PinCall} :
    c ∈ configureCalls bank m n ↔ ∃ i, i < n ∧ c = .pinMode (digitalPin bank i) (configureMode bank m i) := by
  simp [configureCalls, eq_comm]

/-- A call of `write_output` drives a scanned position that the mask marks as output. -/
theorem mem_writeCalls {bank d data : Byte} {n : Nat} {c : PinCall} :
    c ∈ writeCalls bank d data n ↔
      ∃ i, i < n ∧ d.getLsbD i = false ∧ c = .digitalWrite (digitalPin bank i) (data.getLsbD i) := by
  simp only [writeCalls, List.mem_filterMap, List.mem_range]
  constructor
  · rintro ⟨i, hi, h⟩
    split at h
    · simp at h
    · rename_i hd
      exact ⟨i, hi, by simpa using hd, by simpa using h.symm⟩
  · rintro ⟨i, hi, hd, rfl⟩
    exact ⟨i, hi, by simp [hd]⟩

/-- The pins of `read_input`'s loop: the document's formula is the common pin map. -/
theorem readLoop_pin (bank : Byte) {w pos : Nat} (h : pos < w) :
    1 + w + 8 * bank.toNat - (w - 1 - pos) = digitalPin bank pos := by
  simp only [digitalPin]; omega

/-- The input-marked pins below one more position, highest first. -/
theorem inputPins_succ (bank d : Byte) (n : Nat) :
    inputPins bank d (n + 1) = (if d.getLsbD n then [digitalPin bank n] else []) ++ inputPins bank d n := by
  unfold inputPins
  rw [List.range_succ, List.reverse_append]
  simp only [List.reverse_singleton, List.singleton_append, List.filter_cons]
  split <;> simp

/-- What the loop of `read_input` does to the state: it samples the input-marked pins below `n`, highest first, and
draws one answer for each. -/
theorem readLoop_state (bank : Byte) (w : Nat) (d : Byte) (n : Nat) (hn : n ≤ w) (r : Byte) (s : State) :
    (readLoop bank w d n r s).2 = { s with
      oracle := (s.oracle.digitalAnswers (inputPins bank d n).length).2
      pinTrace := s.pinTrace ++ List.zipWith PinCall.digitalRead (inputPins bank d n)
        (s.oracle.digitalAnswers (inputPins bank d n).length).1 } := by
  induction n generalizing r s with
  | zero => simp [readLoop, inputPins, Oracle.digitalAnswers]
  | succ n ih =>
    rw [readLoop, inputPins_succ]
    split
    · rw [ih (by omega)]
      simp [State.digitalRead, Oracle.digitalAnswers, readLoop_pin bank (show n < w by omega)]
    · rw [ih (by omega)]; simp

/-- One step of the accumulation, bit by bit: the new bit enters at position 0 and the others move up. -/
theorem shiftAdd_bit (r : Byte) (b : Bool) (j : Nat) (hj : j < 8) :
    (shiftAdd r b).getLsbD j = if j = 0 then b else r.getLsbD (j - 1) := by
  have key : ∀ (r : Byte) (b : Bool), ∀ j < 8, (shiftAdd r b).getLsbD j = if j = 0 then b else r.getLsbD (j - 1) := by
    decide
  exact key r b j hj

/-- A recorded `DigitalRead` of a list of pins is on one of them. -/
theorem pin_mem_of_mem_zipWith {p : Nat} {v : Bool} {pins : List Nat} {vs : List Bool}
    (h : PinCall.digitalRead p v ∈ List.zipWith PinCall.digitalRead pins vs) : p ∈ pins := by
  induction pins generalizing vs with
  | nil => simp at h
  | cons q qs ih =>
    cases vs with
    | nil => simp at h
    | cons u us =>
      rw [List.zipWith_cons_cons, List.mem_cons] at h
      rcases h with h | h
      · injection h with hp _; simp [hp]
      · exact List.mem_cons_of_mem _ (ih h)

/-- The pins of recorded reads are the pins asked for. -/
theorem pins_of_recorded_reads {pins : List Nat} {vs : List Bool} (h : vs.length = pins.length) :
    (List.zipWith PinCall.digitalRead pins vs).map PinCall.pin = pins := by
  induction pins generalizing vs with
  | nil => simp
  | cons q qs ih =>
    cases vs with
    | nil => simp at h
    | cons v vs =>
      rw [List.zipWith_cons_cons, List.map_cons, ih (by simpa using h)]
      rfl

/-- Recorded reads are `DigitalRead` calls. -/
theorem form_of_recorded_reads {pins : List Nat} {vs : List Bool} {c : PinCall}
    (h : c ∈ List.zipWith PinCall.digitalRead pins vs) : ∃ v, c = .digitalRead c.pin v := by
  induction pins generalizing vs with
  | nil => simp at h
  | cons q qs ih =>
    cases vs with
    | nil => simp at h
    | cons v vs =>
      rw [List.zipWith_cons_cons, List.mem_cons] at h
      rcases h with rfl | h
      · exact ⟨v, rfl⟩
      · exact ih h

/-- A pin below position `n` is not the pin of position `n`. -/
theorem digitalPin_not_mem_inputPins (bank d : Byte) (n : Nat) : digitalPin bank n ∉ inputPins bank d n := by
  simp only [inputPins, List.mem_map, List.mem_filter, List.mem_reverse, List.mem_range, digitalPin]
  rintro ⟨i, ⟨hi, -⟩, h⟩
  omega

/-- The result of `read_input`'s loop, bit by bit: below `n`, what the position's own pin answered if it is an input and
0 if not; from `n` on, the accumulator moved up. -/
theorem readLoop_bit (bank : Byte) (w : Nat) (d : Byte) (n : Nat) (hn : n ≤ w) (r : Byte) (s : State) (i : Nat)
    (hi : i < 8) :
    (readLoop bank w d n r s).1.getLsbD i = true ↔
      if i < n then d.getLsbD i = true ∧ PinCall.digitalRead (digitalPin bank i) true ∈
        List.zipWith PinCall.digitalRead (inputPins bank d n) (s.oracle.digitalAnswers (inputPins bank d n).length).1
      else r.getLsbD (i - n) = true := by
  induction n generalizing r s with
  | zero => simp [readLoop]
  | succ n ih =>
    have hpin := readLoop_pin bank (show n < w by omega)
    rw [readLoop, inputPins_succ]
    split
    · rename_i hd
      rw [ih (by omega)]
      simp only [State.digitalRead_fst, State.digitalRead_oracle, hpin, List.singleton_append,
        List.length_cons, Oracle.digitalAnswers, List.zipWith_cons_cons, List.mem_cons, PinCall.digitalRead.injEq]
      rcases Nat.lt_trichotomy i n with h | h | h
      · have hne : digitalPin bank i ≠ digitalPin bank n := by simp only [digitalPin]; omega
        simp [h, Nat.lt_succ_of_lt h, hne]
      · subst h
        have hnot : PinCall.digitalRead (digitalPin bank i) true ∉ List.zipWith PinCall.digitalRead (inputPins bank d i)
            (s.oracle.nextDigital.2.digitalAnswers (inputPins bank d i).length).1 :=
          fun hm => digitalPin_not_mem_inputPins bank d i (pin_mem_of_mem_zipWith hm)
        rw [if_neg (Nat.lt_irrefl i), if_pos (Nat.lt_succ_self i), Nat.sub_self, shiftAdd_bit _ _ 0 (by omega)]
        simp only [hd, hnot, if_true, true_and, or_false, @eq_comm Bool true]
      · rw [if_neg (by omega), if_neg (by omega), shiftAdd_bit _ _ _ (by omega), if_neg (by omega), Nat.sub_sub]
    · rename_i hd
      rw [ih (by omega), List.nil_append]
      rcases Nat.lt_trichotomy i n with h | h | h
      · simp [h, Nat.lt_succ_of_lt h]
      · subst h
        rw [if_neg (Nat.lt_irrefl i), if_pos (Nat.lt_succ_self i), Nat.sub_self, shiftAdd_bit _ _ 0 (by omega)]
        simp [hd]
      · rw [if_neg (by omega), if_neg (by omega), shiftAdd_bit _ _ _ (by omega), if_neg (by omega), Nat.sub_sub]

theorem readInput_valid {bank : Byte} (h : validBank bank = true) (s : State) :
    readInput bank s = readLoop bank (width bank) (s.dir bank) (width bank) 0#8 s := by
  simp [readInput, h]

theorem readInput_invalid {bank : Byte} (h : validBank bank = false) (s : State) :
    readInput bank s = (0#8, s.raise (.unknownBank bank)) := by
  simp [readInput, h]

/-- The environment gives as many answers as are asked for. -/
theorem digitalAnswers_length (k : Nat) (o : Oracle) : (o.digitalAnswers k).1.length = k := by
  induction k generalizing o with
  | zero => rfl
  | succ k ih => simp [Oracle.digitalAnswers, ih]

/-- The environment gives as many fill bytes as are asked for. -/
theorem fillBytes_length (k : Nat) (o : Oracle) : (o.fillBytes k).1.length = k := by
  induction k generalizing o with
  | zero => rfl
  | succ k ih => simp [Oracle.fillBytes, ih]

end Sys2Proof.Machine
end

