-- ==== Sys2Proof/Laws/Events.lean ====
section
/-! SUPPORT. What the decoder, an instruction, a handler and a step can do, each said once. -/

namespace Sys2Proof.Machine

/-! The decoder -/

/-- A message of length 1 or 2 goes to the opcode decoder, any other is a bad length (30_encoding.md R71). -/
theorem decode_cases (m : List Byte) :
    (∃ op tail, m = op :: tail ∧ tail.length ≤ 1 ∧ decode m = decodeOpcode op tail) ∨
    (m.length ≠ 1 ∧ m.length ≠ 2 ∧ decode m = .rejected (.invalidMessageLength m.length) []) := by
  match m with
  | [] => exact .inr ⟨by simp, by simp, rfl⟩
  | [op] => exact .inl ⟨op, [], rfl, by simp, rfl⟩
  | [op, b1] => exact .inl ⟨op, [b1], rfl, by simp, rfl⟩
  | a :: b :: c :: rest => exact .inr ⟨by simp, by simp, rfl⟩

/-- "Requires 2nd byte" is the four argument opcodes (30_encoding.md R74). -/
theorem requiresArg_cases (op : Byte) :
    (requiresArg op = true ∧ (op = 0x00#8 ∨ op = 0x01#8 ∨ op = 0x14#8 ∨ op = 0x15#8)) ∨ requiresArg op = false := by
  unfold requiresArg
  split <;> simp

/-- The select opcodes and their commands (30_encoding.md R74). -/
theorem selectCommand?_cases (op : Byte) :
    (op = 0x12#8 ∧ selectCommand? op = some .selDA) ∨ (op = 0x13#8 ∧ selectCommand? op = some .selDB) ∨
    (op = 0x20#8 ∧ selectCommand? op = some .selAN0) ∨ (op = 0x21#8 ∧ selectCommand? op = some .selAN1) ∨
    (op = 0x22#8 ∧ selectCommand? op = some .selAN2) ∨ (op = 0x23#8 ∧ selectCommand? op = some .selAN3) ∨
    (op = 0x26#8 ∧ selectCommand? op = some .selAN4) ∨ (op = 0x27#8 ∧ selectCommand? op = some .selAN5) ∨
    selectCommand? op = none := by
  unfold selectCommand?
  split <;> simp

/-- A select opcode leaves whatever follows it unconsumed. -/
theorem decodeOpcode_select {op : Byte} {i : Instr} (h : selectCommand? op = some i) (avail : List Byte) :
    decodeOpcode op avail = .command i avail := by
  have hr : requiresArg op = false := by
    rcases selectCommand?_cases op with
      ⟨rfl, -⟩ | ⟨rfl, -⟩ | ⟨rfl, -⟩ | ⟨rfl, -⟩ | ⟨rfl, -⟩ | ⟨rfl, -⟩ | ⟨rfl, -⟩ | ⟨rfl, -⟩ | hn
    · rfl
    · rfl
    · rfl
    · rfl
    · rfl
    · rfl
    · rfl
    · rfl
    · simp [hn] at h
  simp [decodeOpcode, hr, h, commandOrUnknown]

/-- An argument opcode without its byte is truncated (41_decoder.md R133). -/
theorem decodeOpcode_truncated {op : Byte} (h : requiresArg op = true) :
    decodeOpcode op [] = .rejected (.truncatedArgument op) [] := by
  simp [decodeOpcode, h]

/-! Instructions -/

/-- What an instruction does, said once: `configure`, `write_output` or a write of SEL. -/
theorem exec_cases (i : Instr) :
    (∃ arg, i = .cfgA arg ∧ ∀ s, exec i s = .next (configure 0#8 arg s)) ∨
    (∃ arg, i = .cfgB arg ∧ ∀ s, exec i s = .next (configure 1#8 arg s)) ∨
    (∃ arg, i = .outA arg ∧ ∀ s, exec i s = .next (writeOutput 0#8 arg s)) ∨
    (∃ arg, i = .outB arg ∧ ∀ s, exec i s = .next (writeOutput 1#8 arg s)) ∨
    (∃ source, argBytesOf i = [] ∧ ∀ s, exec i s = .next (s.select source)) := by
  cases i with
  | cfgA arg => exact .inl ⟨arg, rfl, fun _ => rfl⟩
  | cfgB arg => exact .inr (.inl ⟨arg, rfl, fun _ => rfl⟩)
  | outA arg => exact .inr (.inr (.inl ⟨arg, rfl, fun _ => rfl⟩))
  | outB arg => exact .inr (.inr (.inr (.inl ⟨arg, rfl, fun _ => rfl⟩)))
  | selDA => exact .inr (.inr (.inr (.inr ⟨_, rfl, fun _ => rfl⟩)))
  | selDB => exact .inr (.inr (.inr (.inr ⟨_, rfl, fun _ => rfl⟩)))
  | selAN0 => exact .inr (.inr (.inr (.inr ⟨_, rfl, fun _ => rfl⟩)))
  | selAN1 => exact .inr (.inr (.inr (.inr ⟨_, rfl, fun _ => rfl⟩)))
  | selAN2 => exact .inr (.inr (.inr (.inr ⟨_, rfl, fun _ => rfl⟩)))
  | selAN3 => exact .inr (.inr (.inr (.inr ⟨_, rfl, fun _ => rfl⟩)))
  | selAN4 => exact .inr (.inr (.inr (.inr ⟨_, rfl, fun _ => rfl⟩)))
  | selAN5 => exact .inr (.inr (.inr (.inr ⟨_, rfl, fun _ => rfl⟩)))

/-- Every instruction completes. -/
theorem exec_completes (i : Instr) (s : State) : ∃ t, exec i s = .next t := by
  rcases exec_cases i with ⟨_, _, h⟩ | ⟨_, _, h⟩ | ⟨_, _, h⟩ | ⟨_, _, h⟩ | ⟨_, _, h⟩ <;> exact ⟨_, h s⟩

/-- What no instruction touches: the message, the response, the master's view, the waiting events, the environment and
the parameters; and no instruction reports an error. -/
theorem exec_frame {i : Instr} {s t : State} (h : exec i s = .next t) :
    t.rx = s.rx ∧ t.response = s.response ∧ t.masterRx = s.masterRx ∧ t.inbox = s.inbox ∧ t.oracle = s.oracle ∧
    t.params = s.params ∧ t.diagTrace.filter DiagEvent.isError = s.diagTrace.filter DiagEvent.isError := by
  rcases exec_cases i with ⟨_, _, e⟩ | ⟨_, _, e⟩ | ⟨_, _, e⟩ | ⟨_, _, e⟩ | ⟨_, _, e⟩
  all_goals rw [e] at h; injection h with h; subst h
  · simp [configure_valid (bank := 0#8) (by decide), State.diag, DiagEvent.isError]
  · simp [configure_valid (bank := 1#8) (by decide), State.diag, DiagEvent.isError]
  · simp [writeOutput_valid (bank := 0#8) (by decide), DiagEvent.isError]
  · simp [writeOutput_valid (bank := 1#8) (by decide), DiagEvent.isError]
  · simp

/-! Master reads -/

/-- The three selector cases of `dispatch` (42_read_dispatch.md R170). -/
theorem dispatch_cases (s : State) :
    (s.sel = 0#3 ∧ dispatch s = respondDigital 0#8 s) ∨ (s.sel = 1#3 ∧ dispatch s = respondDigital 1#8 s) ∨
    (∃ k : Fin 6, s.sel.toNat = k.val + 2 ∧ dispatch s = respondAnalog k s) := by
  have key : ∀ x : BitVec 3, (x = 0#3 ∧ ReadSelector.ofCode x.toNat = some .digitalBankA) ∨
      (x = 1#3 ∧ ReadSelector.ofCode x.toNat = some .digitalBankB) ∨
      (∃ k : Fin 6, x.toNat = k.val + 2 ∧ ReadSelector.ofCode x.toNat = some (.analogChannel k)) := by decide
  rcases key s.sel with ⟨h, hc⟩ | ⟨h, hc⟩ | ⟨k, h, hc⟩
  · exact .inl ⟨h, by simp only [dispatch, dispatchCode, hc]⟩
  · exact .inr (.inl ⟨h, by simp only [dispatch, dispatchCode, hc]⟩)
  · exact .inr (.inr ⟨k, h, by simp only [dispatch, dispatchCode, hc]⟩)

/-- A digital answer: the snapshot's state with its byte appended to the response. -/
theorem respondDigital_valid {bank : Byte} (h : validBank bank = true) (s : State) :
    respondDigital bank s = { s with
      oracle := (s.oracle.digitalAnswers (inputPins bank (s.dir bank) (width bank)).length).2
      pinTrace := s.pinTrace ++ List.zipWith PinCall.digitalRead (inputPins bank (s.dir bank) (width bank))
        (s.oracle.digitalAnswers (inputPins bank (s.dir bank) (width bank)).length).1
      response := s.response ++ [(readInput bank s).1] } := by
  simp [respondDigital, State.txBytes, readInput_valid h, readLoop_state bank _ _ _ (Nat.le_refl _)]

/-- An analog answer: one call and four bytes. -/
theorem respondAnalog_eq (k : Fin 6) (s : State) :
    respondAnalog k s = { s with
      oracle := s.oracle.nextAnalog.2
      pinTrace := s.pinTrace ++ [.analogRead (analogPin k) s.oracle.nextAnalog.1]
      response := s.response ++ sampleBytes s.oracle.nextAnalog.1 } := rfl

/-! Steps -/

theorem step_idle {s : State} (h : s.inbox = []) : step s = .next s := by
  simp [step, h, waitForEvent]

theorem step_event {s : State} {e : Event} {rest : List Event} (h : s.inbox = e :: rest) :
    step s = handleEvent e (s.beginEvent rest) := by
  simp [step, h]

theorem step_request {s : State} {n : Nat} {rest : List Event} (h : s.inbox = .request n :: rest) :
    step s = .next ((dispatch (s.beginEvent rest)).masterReads n) := by
  simp [step_event h, handleEvent, handleRequest]

theorem step_powerCycle {s : State} {a : BitVec 8} {b : BitVec 4} {rest : List Event}
    (h : s.inbox = .powerCycle a b :: rest) : step s = .next ((s.beginEvent rest).powerCycle a b) := by
  simp [step_event h, handleEvent]

theorem step_receive {s : State} {m : List Byte} {rest : List Event} (h : s.inbox = .receive m :: rest)
    (hm : m.length ≤ s.params.rxCapacity) : step s = handleReceive m (s.beginEvent rest) := by
  simp [step_event h, handleEvent, deliverableCount, hm]

theorem step_overlong {s : State} {m : List Byte} {rest : List Event} (h : s.inbox = .receive m :: rest)
    (hm : s.params.rxCapacity < m.length) : step s = .refused (.aboveRxCapacity m.length) := by
  simp [step_event h, handleEvent, deliverableCount, Nat.not_le.2 hm]

/-- A message of length 1 or 2 is within every capacity. -/
theorem short_le_capacity {m : List Byte} (h : m.length ≤ 2) (p : Params) : m.length ≤ p.rxCapacity := by
  simp only [Params.rxCapacity]; omega

theorem handleReceive_command {m u : List Byte} {i : Instr} (h : decode m = .command i u) {s t : State}
    (he : exec i (s.withRx u) = .next t) : handleReceive m s = .next t.endReceive := by
  simp [handleReceive, h, he, onNext]

theorem handleReceive_rejected {m u : List Byte} {r : Reject} (h : decode m = .rejected r u) (s : State) :
    handleReceive m s = .next (rejectMessage r (s.withRx m)).endReceive := by
  simp [handleReceive, h]

/-- Everything a completed step can have done. -/
theorem step_cases {s t : State} (h : step s = .next t) :
    (s.inbox = [] ∧ t = s) ∨
    (∃ m rest i u x, s.inbox = .receive m :: rest ∧ m.length ≤ s.params.rxCapacity ∧ decode m = .command i u ∧
      exec i ((s.beginEvent rest).withRx u) = .next x ∧ t = x.endReceive) ∨
    (∃ m rest r u, s.inbox = .receive m :: rest ∧ m.length ≤ s.params.rxCapacity ∧ decode m = .rejected r u ∧
      t = (rejectMessage r ((s.beginEvent rest).withRx m)).endReceive) ∨
    (∃ n rest, s.inbox = .request n :: rest ∧ t = (dispatch (s.beginEvent rest)).masterReads n) ∨
    (∃ a b rest, s.inbox = .powerCycle a b :: rest ∧ t = (s.beginEvent rest).powerCycle a b) := by
  match hi : s.inbox with
  | [] => exact .inl ⟨rfl, by simpa [step_idle hi] using h.symm⟩
  | .request n :: rest =>
    exact .inr (.inr (.inr (.inl ⟨n, rest, rfl, by simpa [step_request hi] using h.symm⟩)))
  | .powerCycle a b :: rest =>
    exact .inr (.inr (.inr (.inr ⟨a, b, rest, rfl, by simpa [step_powerCycle hi] using h.symm⟩)))
  | .receive m :: rest =>
    by_cases hm : m.length ≤ s.params.rxCapacity
    · rw [step_receive hi hm] at h
      match hd : decode m with
      | .command i u =>
        obtain ⟨x, hx⟩ := exec_completes i ((s.beginEvent rest).withRx u)
        rw [handleReceive_command hd hx] at h
        exact .inr (.inl ⟨m, rest, i, u, x, rfl, hm, hd, hx, by simpa using h.symm⟩)
      | .rejected r u =>
        rw [handleReceive_rejected hd] at h
        exact .inr (.inr (.inl ⟨m, rest, r, u, rfl, hm, hd, by simpa using h.symm⟩))
    · rw [step_overlong hi (by omega)] at h
      simp at h

/-! Runs -/

theorem run_zero (s : State) : Host.Core.run Sys2Proof.core 0 s = .next s := rfl

/-- A run goes on from what its first step answers. -/
theorem run_step {s t : State} (h : step s = .next t) (k : Nat) :
    Host.Core.run Sys2Proof.core (k + 1) s = Host.Core.run Sys2Proof.core k t := by
  have h' : Sys2Proof.core.step s = .next t := h
  simp [Host.Core.run, h']

end Sys2Proof.Machine
end

