-- ==== Sys2Proof/Laws/PerInstr.lean ====
section
/-! SUPPORT. Statements made for each instruction as syntax, one lemma per constructor. -/

namespace Sys2Proof.Laws.RoundTrip

/-- Decoding an instruction's encoding gives it back, with nothing left over (30_encoding.md R70, R74). -/
def Statement (i : Instr) : Prop := decode (encode i) = .command i []

theorem cfgA (arg : Byte) : Statement (.cfgA arg) := rfl
theorem cfgB (arg : Byte) : Statement (.cfgB arg) := rfl
theorem selDA : Statement .selDA := rfl
theorem selDB : Statement .selDB := rfl
theorem outA (arg : Byte) : Statement (.outA arg) := rfl
theorem outB (arg : Byte) : Statement (.outB arg) := rfl
theorem selAN0 : Statement .selAN0 := rfl
theorem selAN1 : Statement .selAN1 := rfl
theorem selAN2 : Statement .selAN2 := rfl
theorem selAN3 : Statement .selAN3 := rfl
theorem selAN4 : Statement .selAN4 := rfl
theorem selAN5 : Statement .selAN5 := rfl

end Sys2Proof.Laws.RoundTrip
end

