-- ==== Sys2Proof/Tests/Slice0.lean ====
section
/-! SUPPORT. Tests on fixed values (the expected results are the spec's own vectors, 95_test_vectors.md, or are worked out
from its tables), and a witness for the hypotheses of each obligation. -/

namespace Sys2Proof.Machine.Tests

/-- A state with these registers, events and pin answers, other fields as after reset. -/
def at_ (a : BitVec 8) (b : BitVec 4) (sel : BitVec 3) (events : List Event) (digital : List Bool := [])
    (analog : List (BitVec 10) := []) (fill : List Byte := []) : State :=
  { State.reset with
    dirA := a, dirB := b, sel := sel, inbox := events,
    oracle := { digital := digital, analog := analog, fill := fill, draws := 0 } }

/-- The state after `k` steps, or the state itself where the run does not complete. -/
def after (k : Nat) (s : State) : State :=
  match Host.Core.run Sys2Proof.core k s with
  | .next t => t
  | .fault _ => s
  | .refused _ => s

/-- The same state with other scan widths of Bank B. -/
def scans (cfg wr : ScanWidth) (s : State) : State := { s with params := { s.params with cfgScanB := cfg, wrScanB := wr } }

/-- `PM(p,I)` and `PM(p,O)` of 95_test_vectors.md. -/
def pmI (p : Nat) : PinCall := .pinMode p .input
def pmO (p : Nat) : PinCall := .pinMode p .output

/-! Decoding: words written out from 30_encoding.md R74 -/

theorem test_decode_cfgA : decode [0b00000000#8, 0b00000011#8] = .command (.cfgA 3#8) [] := by decide
theorem test_decode_cfgB : decode [0b00000001#8, 0b01101100#8] = .command (.cfgB 0x6C#8) [] := by decide
theorem test_decode_selDA : decode [0b00010010#8] = .command .selDA [] := by decide
theorem test_decode_selDB : decode [0b00010011#8] = .command .selDB [] := by decide
theorem test_decode_outA : decode [0b00010100#8, 0b10000001#8] = .command (.outA 0x81#8) [] := by decide
theorem test_decode_outB : decode [0b00010101#8, 0b11110101#8] = .command (.outB 0xF5#8) [] := by decide
theorem test_decode_selAN0 : decode [0b00100000#8] = .command .selAN0 [] := by decide
theorem test_decode_selAN1 : decode [0b00100001#8] = .command .selAN1 [] := by decide
theorem test_decode_selAN2 : decode [0b00100010#8] = .command .selAN2 [] := by decide
theorem test_decode_selAN3 : decode [0b00100011#8] = .command .selAN3 [] := by decide
theorem test_decode_selAN4 : decode [0b00100110#8] = .command .selAN4 [] := by decide
theorem test_decode_selAN5 : decode [0b00100111#8] = .command .selAN5 [] := by decide

/-- V31: the gap inside the analog group and the edges of the illegal ranges. -/
theorem test_decode_illegal : [0x02#8, 0x11#8, 0x16#8, 0x1F#8, 0x24#8, 0x25#8, 0x28#8, 0xFF#8].all
    (fun op => decide (decode [op] = .rejected (.unknownOpcode op) [])) = true := by decide

/-- Table bits: byte 0 is the least significant byte. -/
theorem test_decodeTableWord : decodeTableWord 16 0xA501 = some (.cfgB 0xA5#8) ∧ decodeTableWord 8 0x14 = some (.outA 0#8) ∧
    decodeTableWord 8 0x26 = some .selAN4 ∧ decodeTableWord 8 0x24 = none := by decide

/-! Well-formedness: each check refuses an ill-formed term -/

theorem test_wf_operand_range : Line.wf (.cmd .cfgA (some 256)) = false ∧ Line.wf (.cmd .cfgA (some 255)) = true := by decide
theorem test_wf_operand_missing : Line.wf (.cmd .outB none) = false := by decide
theorem test_wf_operand_surplus : Line.wf (.cmd .selDA (some 0)) = false := by decide
theorem test_wf_write_byte : Line.wf (.wr [0x14, 256]) = false ∧ Line.wf (.wr []) = true := by decide
theorem test_wf_deliverable : deliverableCount Params.default 33 = false ∧ deliverableCount Params.default 32 = true := by decide

/-! Assembly text (30_encoding.md R80, R81) -/

/-- R81: `CFG.A 0x03` is `WR 0x00, 0x03`. -/
theorem test_assemble_command : assemble "CFG.A 0x03 ; two inputs" = assemble "WR 0x00, 0x03" := by decide
theorem test_assemble_literals : assemble "OUT.B 0b101" = some (.write 0x40#7 [0x15#8, 5#8]) ∧
    assemble "OUT.B 256" = none ∧ assemble "SEL.AN4" = some (.write 0x40#7 [0x26#8]) := by decide
theorem test_assemble_bus_forms : assemble "RD 4" = some (.read 0x40#7 4) ∧ assemble "WR" = some (.write 0x40#7 []) := by decide

/-! Instructions -/

/-- L1-7. -/
theorem test_cfgA : let t := after 1 (at_ 0xFF 2 3 [.receive [0x00#8, 0b00000011#8]])
    t.regs = ⟨0x03, 2, 3⟩ ∧ t.pinTrace = [pmI 2, pmI 3, pmO 4, pmO 5, pmO 6, pmO 7, pmO 8, pmO 9] ∧
    t.diagTrace = [.config 0 0x03] := by decide

/-- L1-1. -/
theorem test_cfgB_scan8 : let t := after 1 (at_ 0 0 0 [.receive [0x01#8, 0x6C#8]])
    t.regs = ⟨0, 0xC, 0⟩ ∧ t.pinTrace = [pmO 10, pmO 11, pmI 12, pmI 13, pmO 14, pmO 15, pmO 16, pmO 17] ∧
    t.diagTrace = [.config 1 0x0C] := by decide

/-- V6. -/
theorem test_cfgB_scan4 : let t := after 1 (scans .four .four (at_ 7 0 0 [.receive [0x01#8, 0x0A#8]]))
    t.regs = ⟨7, 0xA, 0⟩ ∧ t.pinTrace = [pmO 10, pmI 11, pmO 12, pmI 13] := by decide

/-- V9. -/
theorem test_outA : let t := after 1 (at_ 0x0F 1 2 [.receive [0x14#8, 0xAA#8]])
    t.regs = ⟨0x0F, 1, 2⟩ ∧
    t.pinTrace = [.digitalWrite 6 false, .digitalWrite 7 true, .digitalWrite 8 false, .digitalWrite 9 true] ∧
    t.diagTrace = [.write 0 0x0F 0xAA] := by decide

/-- V13. -/
theorem test_outB_scan4 : let t := after 1 (at_ 0 9 0 [.receive [0x15#8, 0xFF#8]])
    t.pinTrace = [.digitalWrite 11 true, .digitalWrite 12 true] ∧ t.diagTrace = [.write 1 0x09 0xFF] := by decide

/-- V12. -/
theorem test_outB_scan8 : let t := after 1 (scans .eight .eight (at_ 0 0 0 [.receive [0x15#8, 0xF5#8]]))
    t.pinTrace = [.digitalWrite 10 true, .digitalWrite 11 false, .digitalWrite 12 true, .digitalWrite 13 false,
      .digitalWrite 14 true, .digitalWrite 15 true, .digitalWrite 16 true, .digitalWrite 17 true] := by decide

/-- V15. -/
theorem test_selDA : let t := after 1 (at_ 1 2 7 [.receive [0x12#8]])
    t.regs = ⟨1, 2, 0⟩ ∧ t.pinTrace = [] ∧ t.diagTrace = [] := by decide

/-- V19: the trailing byte is discarded. -/
theorem test_selDB : let t := after 1 (at_ 1 2 0 [.receive [0x13#8, 0x77#8]])
    t.regs = ⟨1, 2, 1⟩ ∧ t.rx = [] ∧ t.diagTrace = [] := by decide

/-- V22. -/
theorem test_selAN0 : let t := after 2 (at_ 0 0 0 [.receive [0x20#8], .request 4] (analog := [0]))
    t.pinTrace = [.analogRead 23 0] ∧ t.masterRx = [0, 0, 0, 0] := by decide

/-- V23. -/
theorem test_selAN1 : let t := after 2 (at_ 0 0 0 [.receive [0x21#8], .request 4] (analog := [1023]))
    t.pinTrace = [.analogRead 24 1023] ∧ t.masterRx = [0x00, 0x00, 0x03, 0xFF] := by decide

/-- L1-6. -/
theorem test_selAN2 : let t := after 2 (at_ 0 0 0 [.receive [0x22#8], .request 4] (analog := [0x2BC]))
    t.pinTrace = [.analogRead 25 0x2BC] ∧ t.masterRx = [0x00, 0x00, 0x02, 0xBC] ∧ t.sel = 4 := by decide

/-- V24: the second read samples again. -/
theorem test_selAN3 : let t := after 3 (at_ 0 0 0 [.receive [0x23#8], .request 4, .request 4] (analog := [0x100, 0x0FF]))
    t.pinTrace = [.analogRead 26 0x0FF] ∧ t.masterRx = [0x00, 0x00, 0x00, 0xFF] := by decide

/-- V25. -/
theorem test_selAN4 : let t := after 2 (at_ 0 0 0 [.receive [0x26#8], .request 4] (analog := [0x155]))
    t.pinTrace = [.analogRead 29 0x155] ∧ t.masterRx = [0x00, 0x00, 0x01, 0x55] := by decide

/-- V26. -/
theorem test_selAN5 : let t := after 2 (at_ 0 0 0 [.receive [0x27#8], .request 4] (analog := [0x2AA]))
    t.pinTrace = [.analogRead 30 0x2AA] ∧ t.masterRx = [0x00, 0x00, 0x02, 0xAA] ∧ t.sel = 7 := by decide

/-! Reads -/

/-- V16. -/
theorem test_read_bankA : let t := after 1 (at_ 0xF0 0 0 [.request 1] (digital := [true, false, true, true]))
    t.pinTrace = [.digitalRead 9 true, .digitalRead 8 false, .digitalRead 7 true, .digitalRead 6 true] ∧
    t.masterRx = [0xB0] ∧ t.regs = ⟨0xF0, 0, 0⟩ := by decide

/-- 42_read_dispatch.md R172, example. -/
theorem test_read_bankB : let t := after 1 (at_ 0 0xF 1 [.request 1] (digital := [true, false, false, true]))
    t.response = [0x09] ∧ t.pinTrace.map PinCall.pin = [13, 12, 11, 10] := by decide

/-- V17: no input, no sample. -/
theorem test_read_no_input : let t := after 1 (at_ 0 0 0 [.request 1] (digital := [true]))
    t.response = [0x00] ∧ t.pinTrace = [] ∧ t.oracle.digital = [true] := by decide

/-- V21: a long read gets fill bytes. -/
theorem test_read_long : (after 1 (at_ 0x01 0 0 [.request 3] (digital := [true]) (fill := [0xEE, 0xDD]))).masterRx =
    [0x01, 0xEE, 0xDD] := by decide

/-- V27: a short read still takes the whole sample. -/
theorem test_read_short : let t := after 1 (at_ 0 0 3 [.request 1] (analog := [0x3FF]))
    t.masterRx = [0x00] ∧ t.pinTrace = [.analogRead 24 0x3FF] ∧ t.response.length = 4 := by decide

/-- A read with no answer lined up draws a free value, and the step completes. -/
theorem test_read_draws : let t := after 1 (at_ 0 0 2 [.request 4])
    t.oracle.draws = 1 ∧ t.response.length = 4 ∧ t.pinTrace = [.analogRead 23 (Config.analogDraw 0)] :=
  ⟨rfl, rfl, rfl⟩

/-! Errors, invalid banks, reset -/

/-- L1-8. -/
theorem test_bad_length : let t := after 1 (at_ 0x11 2 2 [.receive [0x00#8, 0xFF#8, 0x12#8]])
    t.regs = ⟨0x11, 2, 2⟩ ∧ t.pinTrace = [] ∧
    t.diagTrace = [.echo 0x00, .echo 0xFF, .echo 0x12, .error (.invalidMessageLength 3)] := by decide

/-- V29. -/
theorem test_empty_message : (after 1 (at_ 0 0 0 [.receive []])).diagTrace = [.error (.invalidMessageLength 0)] := by decide

/-- V32. -/
theorem test_unknown_opcode : let t := after 1 (at_ 1 1 1 [.receive [0x25#8, 0x01#8]])
    t.diagTrace = [.error (.unknownOpcode 0x25)] ∧ t.regs = ⟨1, 1, 1⟩ ∧ t.rx = [] := by decide

/-- V36: a split command. -/
theorem test_split_command : let s := at_ 0x3C 0 0 [.receive [0x00#8], .receive [0x03#8]]
    (after 1 s).diagTrace = [.error (.truncatedArgument 0x00)] ∧
    (after 2 s).diagTrace = [.error (.unknownOpcode 0x03)] ∧ (after 2 s).dirA = 0x3C := by decide

/-- V37 to V39. -/
theorem test_invalid_bank : let s := at_ 1 2 3 []
    (configure 2 0xFF s).diagTrace = [.error (.unknownBank 2)] ∧ (configure 2 0xFF s).regs = s.regs ∧
    (writeOutput 0xFF 0 s).diagTrace = [.error (.unknownBank 0xFF)] ∧
    (readInput 7 s).1 = 0 ∧ (readInput 7 s).2.diagTrace = [.error (.unknownBank 7)] := by decide

/-- 60_exceptions.md R200: codes and information. -/
theorem test_error_codes :
    [BlockError.unknownBank 7, .unknownOpcode 0x25, .truncatedArgument 0x15, .invalidMessageLength 3,
      .unreachableReadState 9].map (fun e => (e.code, e.info)) = [(1, 7), (2, 0x25), (3, 0x15), (4, 3), (5, 9)] := by decide

/-- 42_read_dispatch.md R174: the defensive arm of a selector outside the enumeration. -/
theorem test_unreachable_selector : (dispatchCode 8 (at_ 0 0 0 [])).diagTrace = [.error (.unreachableReadState 8)] ∧
    (dispatchCode 8 (at_ 0 0 0 [])).response = [] := by decide

/-- A power cycle loses the registers and takes the new draws. -/
theorem test_power_cycle : (after 2 (at_ 1 2 3 [.receive [0x27#8], .powerCycle 0x55 0xA])).regs = ⟨0x55, 0xA, 0⟩ := by decide

theorem test_reset_record : State.reset.RecordOk := by decide

/-- A write to another address never reaches the block. -/
theorem test_other_address : (State.reset.submit [.write 0x41 [0x12], .write 0x40 [0x13]]).inbox = [.receive [0x13]] := by decide

/-! Witnesses: for each obligation with hypotheses, a state and operands that meet them together -/

theorem witness_ConfigureCommandsFrame : ∃ t, exec (.cfgA 0xA5#8) State.reset = .next t ∧ t.dirB = 0#4 := ⟨_, rfl, rfl⟩
theorem witness_ConfigureCommandsFrame_bankB : ∃ t, exec (.cfgB 0xF0#8) State.reset = .next t ∧ t.dirA = 0#8 := ⟨_, rfl, rfl⟩
theorem witness_OutputCommandsFrame : (∃ t, exec (.outA 0xFF#8) State.reset = .next t) ∧
    ∃ t, exec (.outB 0xFF#8) State.reset = .next t := ⟨⟨_, rfl⟩, _, rfl⟩
theorem witness_bank : validBank 0#8 = true ∧ validBank 1#8 = true ∧ validBank 2#8 = false := by decide
theorem witness_ConfigureLeavesModesMatchingDir : (3 < width 1#8 ∧ 7 < width 0#8) ∧
    lastCallOn 13 (configure 1#8 0x08#8 State.reset).pinTrace = some (pmI 13) := by decide
theorem witness_ConfigureRepeatsItsCalls : (1#8 = 0#8 ∨ (1#8 : Byte) = 1#8) ∧
    (at_ 9 9 9 []).params = State.reset.params := by decide
theorem witness_WriteNeverTouchesAnInput : let s := at_ 0x80 8 0 []
    (7 < width 0#8 ∧ (s.dir 0#8).getLsbD 7 = true) ∧ (3 < width 1#8 ∧ (s.dir 1#8).getLsbD 3 = true) := by decide
theorem witness_ReadInputSamplesEachInputPin : let s := at_ 0x81 1 0 [] (digital := [true, true])
    (readInput 0#8 s).1 = 0x81#8 ∧ (readInput 1#8 s).1 = 0x01#8 ∧ (readInput 2#8 s).1 = 0#8 := by decide
theorem witness_ReadInputSamplesEachInputPin_dispatch : (at_ 0 0 0 [.request 1]).sel = 0#3 ∧
    (at_ 0 0 1 [.request 1]).sel = 1#3 ∧ ∃ t, step (at_ 0 0 1 [.request 1]) = .next t := ⟨rfl, rfl, _, rfl⟩
theorem witness_ReadInputFitsWidthAndMask : (readInput 1#8 (at_ 0 0xF 0 [] (digital := [true, true, true, true]))).1 = 0x0F#8 := by
  decide
theorem witness_UnknownBankIsANoOpAndUnreachable : (2#8 ≠ 0#8 ∧ (2#8 : Byte) ≠ 1#8) ∧
    ∃ s t : State, s.inbox ≠ [] ∧ step s = .next t := ⟨by decide, at_ 0 0 0 [.receive [0x24#8]], _, by decide, rfl⟩
theorem witness_DigitalReadsAnswerOneSnapshotByte :
    ((at_ 0x80 0 0 [.request 1]).inbox = .request 1 :: [] ∧ (at_ 0x80 0 0 [.request 1]).sel = 0#3) ∧
    ((at_ 0 8 1 [.request 1]).inbox = .request 1 :: [] ∧ (at_ 0 8 1 [.request 1]).sel = 1#3) ∧
    (at_ 0 0 0 []).dir 0#8 = 0#8 := by decide
theorem witness_AnalogReadsAnswerFourBytesBigEndian : let s := at_ 0 0 7 [.request 4] (analog := [1023])
    s.inbox = .request 4 :: [] ∧ s.sel.toNat = (5 : Fin 6).val + 2 := by decide
theorem witness_ResponseLengthIsSetBySelAlone : ((at_ 0 0 1 [.request 0]).inbox = .request 0 :: [] ∧
    (after 1 (at_ 0 0 1 [.request 0])).response.length = 1) ∧ (after 1 (at_ 0 0 2 [.request 0] (analog := [1]))).response.length = 4 := by
  decide
theorem witness_UnreachableSelectorWritesNothing : 8 ≤ 8 ∧ ∃ s t : State, s.inbox ≠ [] ∧ step s = .next t :=
  ⟨Nat.le_refl 8, at_ 0 0 7 [.request 4], _, by decide, rfl⟩
theorem witness_MasterReceivesResponseThenFill : let s := at_ 0 0 0 [.request 2] (fill := [0xEE])
    s.inbox = .request 2 :: [] ∧ s.oracle.fill.length ≥ [(0xEE : Byte)].length ∧ (after 1 s).masterRx = [0x00, 0xEE] := by decide
theorem witness_EachReadSamplesAgain : (at_ 1 0 0 [.request 1, .request 4]).inbox = .request 1 :: .request 4 :: [] := by decide
theorem witness_StepRunsTheDecodedInstruction : (at_ 0 0 0 [.receive [0x13#8, 0x77#8]]).inbox = .receive [0x13#8, 0x77#8] :: [] ∧
    decode [0x13#8, 0x77#8] = .command .selDB [0x77#8] := by decide
theorem witness_BadLengthIsDrainedAndRejected : [1#8, 2#8, 3#8].length ≤ State.reset.params.rxCapacity ∧
    ([] : List Byte).length ≠ 1 ∧ [1#8, 2#8, 3#8].length ≠ 1 ∧ [1#8, 2#8, 3#8].length ≠ 2 := by decide
theorem witness_IllegalOpcodesAreReportedAndIgnored : illegalOpcode 0x02#8 = true ∧ illegalOpcode 0x11#8 = true ∧
    illegalOpcode 0x16#8 = true ∧ illegalOpcode 0x24#8 = true ∧ illegalOpcode 0xFF#8 = true ∧ illegalOpcode 0x27#8 = false ∧
    [0x01#8].length ≤ 1 := by decide
theorem witness_MissingArgumentIsReported : 0x15#8 ∈ argumentOpcodes ∧
    (at_ 0 0 0 [.receive [0x15#8]]).inbox = .receive [0x15#8] :: [] := by decide
theorem witness_ByteAfterSelectIsDiscarded : 0x27#8 ∈ selectOpcodes ∧ 0x12#8 ∈ selectOpcodes := by decide
theorem witness_ErrorsFollowThePrecedenceTable :
    ([0x05#8, 0x00#8, 0x00#8] : List Byte).length ≤ State.reset.params.rxCapacity ∧
    errorsOf [0x05#8, 0x00#8, 0x00#8] = [.error (.invalidMessageLength 3)] ∧ errorsOf [0x05#8] = [.error (.unknownOpcode 5)] ∧
    errorsOf [0x14#8] = [.error (.truncatedArgument 0x14)] ∧ errorsOf [0x14#8, 0#8] = [] ∧
    errorsOf [] = [.error (.invalidMessageLength 0)] := by decide
theorem witness_AnErrorChangesNoRegisterAndCallsNoPin : ∃ s t : State, s.inbox ≠ [] ∧ step s = .next t ∧
    t.diagTrace.any DiagEvent.isError = true := ⟨at_ 1 2 3 [.receive [0x24#8]], _, by decide, rfl, by decide⟩
theorem witness_ReceiveEventsNeverReadAPin : (at_ 0 0 0 [.receive [0x14#8, 1#8]]).inbox = .receive [0x14#8, 1#8] :: [] ∧
    [0x14#8, 1#8].length ≤ State.reset.params.rxCapacity := by decide
theorem witness_ASplitCommandIsTwoMessages : 0x14#8 ∈ argumentOpcodes ∧
    (at_ 0 0 4 [.receive [0x14#8], .receive [0x12#8]]).inbox = .receive [0x14#8] :: .receive [0x12#8] :: [] := by decide
theorem witness_OutDataIsForgotten : (0x15#8 = 0x14#8 ∨ (0x15#8 : Byte) = 0x15#8) ∧ (0x00#8 = 0x00#8 ∨ (0x00#8 : Byte) = 0x01#8) := by
  decide
theorem witness_RegistersChangeOnlyAtTheirCommands : ∃ s t : State, step s = .next t ∧
    s.inbox.head?.any Event.isPowerCycle = false ∧ t.dirA ≠ s.dirA :=
  ⟨at_ 0 0 0 [.receive [0x00#8, 1#8]], _, rfl, by decide, by decide⟩
theorem witness_RegistersChangeOnlyAtTheirCommands_rest :
    (after 1 (at_ 0 0 0 [.receive [0x01#8, 1#8]])).dirB ≠ 0#4 ∧ (after 1 (at_ 0 0 0 [.receive [0x27#8, 9#8]])).sel ≠ 0#3 := by decide
theorem witness_EveryStepKeepsTheRecordInvariant : ∃ s t : State, s.RecordOk ∧ step s = .next t ∧ t.response.length = 4 :=
  ⟨at_ 0 0 4 [.request 4] (analog := [0x2BC]), _, by decide, rfl, by decide⟩
theorem witness_RunsRefineTheRegisterTable :
    let s := at_ 0 0 0 [.receive [0x00#8, 7#8], .request 1, .receive [0x01#8, 0xF2#8], .receive [0x22#8]]
    s.inbox.all (Event.deliverable s.params) = true ∧ (s.inbox.foldl Regs.after s.regs) = ⟨7, 2, 4⟩ := by decide
theorem witness_SelectorIsTheMostRecentSelect :
    let events : List Event := [.receive [0x20#8], .receive [0x13#8, 0x77#8], .request 1, .receive [0x24#8]]
    events.all (Event.deliverable Params.default) = true ∧ events.any Event.isPowerCycle = false ∧
    ((events.filterMap selectedCode).getLast?).getD 0#3 = 1#3 := by decide
theorem witness_DecodeInvertsEncode : decode [0x12#8, 0x99#8] = .command .selDA [0x99#8] ∧
    [0x12#8, 0x99#8] = encode .selDA ++ [0x99#8] ∧ [0x12#8, 0x99#8].length ≤ 2 := by decide
theorem witness_ByteZeroHasOneOfFiveClasses : decode [0x27#8] = .command .selAN5 [] ∧
    classify 0x27#8 = .selectAnalogRead 5 ∧ classify 0x24#8 = .unknown := by decide
theorem witness_AFetchedTableWordRuns : decodeTableWord 16 0xFF14 = some (.outA 0xFF#8) ∧ decodeTableWord 8 0x27 = some .selAN5 := by
  decide
theorem witness_PowerCycleLosesAllRegisters : (at_ 1 1 1 [.powerCycle 0xFF 0xF]).inbox = .powerCycle 0xFF 0xF :: [] := by decide
theorem witness_OnlyOverlongMessagesStop : let s := at_ 0 0 0 [.receive (List.replicate 33 0x12#8)]
    s.params.rxCapacity < (List.replicate 33 0x12#8).length ∧ step s = .refused (.aboveRxCapacity 33) := ⟨by decide, rfl⟩
theorem witness_OnlyOverlongMessagesStop_completes :
    (at_ 0 0 0 [.receive (List.replicate 32 0x12#8)]).inbox.head?.all (Event.deliverable Params.default) = true := by decide

end Sys2Proof.Machine.Tests
end

section
/-! Proofs about byte 0 of a message (30_encoding.md R75 to R78): which bytes are opcodes, what the decoder and a step do
with a byte that is none, and the class of each byte. -/

namespace Sys2Proof.Machine

/-! Legal and illegal bytes -/

/-- The four ranges of 30_encoding.md R76 are the complement of the opcode table. -/
theorem illegalOpcode_eq_false_iff (op : Byte) :
    illegalOpcode op = false ↔ op ∈ argumentOpcodes ∨ op ∈ selectOpcodes := by
  simp only [illegalOpcode, argumentOpcodes, selectOpcodes, List.mem_cons, List.not_mem_nil, ← BitVec.toNat_inj,
    BitVec.toNat_ofNat, Nat.reducePow, Nat.reduceMod, or_false, Bool.or_eq_false_iff, Bool.and_eq_false_iff,
    decide_eq_false_iff_not]
  omega

/-- A fact about every byte is one about the twelve opcodes and one about the illegal bytes. -/
theorem byte_cases {P : Byte → Prop} (legal : ∀ op ∈ argumentOpcodes ++ selectOpcodes, P op)
    (illegal : ∀ op, illegalOpcode op = true → P op) (op : Byte) : P op := by
  cases h : illegalOpcode op with
  | true => exact illegal op h
  | false => exact legal op (List.mem_append.2 ((illegalOpcode_eq_false_iff op).1 h))

theorem illegalOpcode_count : ((List.range 256).filter fun v => illegalOpcode (BitVec.ofNat 8 v)).length = 244 := by
  decide +kernel

theorem toNat_ne_of_illegalOpcode {op : Byte} (h : illegalOpcode op = true) {n : Nat}
    (hn : illegalOpcode (BitVec.ofNat 8 n) = false) : op.toNat ≠ n := by
  rintro rfl
  simp [h] at hn

/-! The decoder on byte 0 -/

theorem requiresArg_iff_mem (op : Byte) : requiresArg op = true ↔ op ∈ argumentOpcodes := by
  unfold requiresArg
  split <;> simp_all [argumentOpcodes]

theorem selectCommand?_eq_none_iff (op : Byte) : selectCommand? op = none ↔ op ∉ selectOpcodes := by
  unfold selectCommand?
  split <;> simp_all [selectOpcodes]

/-- A message of length 1 or 2 goes to the opcode decoder (30_encoding.md R71). -/
theorem decode_cons (op : Byte) {tail : List Byte} (h : tail.length ≤ 1) : decode (op :: tail) = decodeOpcode op tail := by
  match tail with
  | [] => rfl
  | [_] => rfl
  | _ :: _ :: _ => simp at h

/-- A byte outside the table is rejected and nothing after it is consumed (41_decoder.md R132). -/
theorem decodeOpcode_illegal {op : Byte} (h : illegalOpcode op = true) (avail : List Byte) :
    decodeOpcode op avail = .rejected (.unknownOpcode op) avail := by
  have hmem : ¬ (op ∈ argumentOpcodes ∨ op ∈ selectOpcodes) := by simp [← illegalOpcode_eq_false_iff, h]
  obtain ⟨harg, hsel⟩ := not_or.1 hmem
  rw [← requiresArg_iff_mem] at harg
  rw [← selectCommand?_eq_none_iff] at hsel
  simp [decodeOpcode, harg, hsel, commandOrUnknown]

theorem commandOrUnknown_eq_command {op : Byte} {found : Option Instr} {avail u : List Byte} {i : Instr}
    (h : commandOrUnknown op found avail = .command i u) : found = some i ∧ avail = u := by
  cases found <;> simp_all [commandOrUnknown]

/-- The two ways byte 0 becomes a command: an argument opcode with its byte, or a select opcode. -/
theorem decodeOpcode_eq_command {op : Byte} {avail u : List Byte} {i : Instr}
    (h : decodeOpcode op avail = .command i u) :
    (∃ arg, avail = arg :: u ∧ argCommand? op arg = some i) ∨ (avail = u ∧ selectCommand? op = some i) := by
  unfold decodeOpcode at h
  split at h
  · cases avail with
    | nil => simp at h
    | cons arg more =>
      obtain ⟨hfound, rfl⟩ := commandOrUnknown_eq_command h
      exact .inl ⟨arg, rfl, hfound⟩
  · obtain ⟨hfound, rfl⟩ := commandOrUnknown_eq_command h
    exact .inr ⟨rfl, hfound⟩

/-! Steps -/

/-- The step of a message rejected for its opcode: the error is the one diagnostic, and only the record of the event
changes (60_exceptions.md R202, R206). -/
theorem step_unknownOpcode {s : State} {m u : List Byte} {op : Byte} {rest : List Event}
    (hi : s.inbox = .receive m :: rest) (hm : m.length ≤ 2) (hd : decode m = .rejected (.unknownOpcode op) u) :
    step s = .next { s with
      inbox := rest, rx := [], pinTrace := [], response := [], masterRx := []
      diagTrace := [.error (.unknownOpcode op)] } := by
  rw [step_receive hi (short_le_capacity hm _), handleReceive_rejected hd]
  rfl

/-! Classes -/

theorem classify_illegal {op : Byte} (h : illegalOpcode op = true) : classify op = .unknown := by
  unfold classify
  split <;> simp_all [illegalOpcode]

theorem classify_of_argCommand? {op arg : Byte} {i : Instr} (h : argCommand? op arg = some i) :
    classify op = classOf i := by
  unfold argCommand? at h
  split at h <;> cases h <;> rfl

theorem classify_of_selectCommand? {op : Byte} {i : Instr} (h : selectCommand? op = some i) :
    classify op = classOf i := by
  unfold selectCommand? at h
  split at h <;> cases h <;> rfl

/-! The obligations -/

/-- Settles O22: the ranges are the complement of the table, so an illegal byte 0 reaches neither opcode list, and
rejecting it only records the error. -/
theorem illegalOpcodesAreReportedAndIgnored : Obligations.IllegalOpcodesAreReportedAndIgnored := by
  refine ⟨illegalOpcode_count, illegalOpcode_eq_false_iff, fun s op tail rest hop htail hi => ?_⟩
  have hd : decode (op :: tail) = .rejected (.unknownOpcode op) tail := by
    rw [decode_cons op htail, decodeOpcode_illegal hop]
  exact ⟨hd, step_unknownOpcode hi (Nat.succ_le_succ htail) hd⟩

/-- Settles O37: a command's class is read off its opcode list, the twelve opcodes are checked one by one, and an illegal
byte is Unknown and differs from every listed byte. -/
theorem byteZeroHasOneOfFiveClasses : Obligations.ByteZeroHasOneOfFiveClasses := by
  refine ⟨fun op tail u i h => ?_, byte_cases ?legal ?illegal⟩
  · rcases decode_cases (op :: tail) with ⟨_, _, hm, -, hd⟩ | ⟨-, -, hd⟩
    · obtain ⟨rfl, rfl⟩ := List.cons.inj hm
      rcases decodeOpcode_eq_command (hd ▸ h) with ⟨_, -, harg⟩ | ⟨-, hsel⟩
      · exact classify_of_argCommand? harg
      · exact classify_of_selectCommand? hsel
    · simp [hd] at h
  case legal => decide
  case illegal =>
    intro op h
    have hb (base : Nat) (hbase : base ∈ [0x00, 0x14, 0x12]) (b : Fin 2) : op.toNat ≠ base + b.val := by
      apply toNat_ne_of_illegalOpcode h
      revert base b
      decide
    have hk (k : Fin 6) : op.toNat ≠ [0x20, 0x21, 0x22, 0x23, 0x26, 0x27].getD k.val 0 := by
      apply toNat_ne_of_illegalOpcode h
      revert k
      decide
    rw [classify_illegal h]
    exact ⟨fun b => by simpa using hb 0x00 (by decide) b, fun b => by simpa using hb 0x14 (by decide) b,
      fun b => by simpa using hb 0x12 (by decide) b, fun k => by simpa using hk k, by simp [h]⟩

end Sys2Proof.Machine
end

section
/-! Proofs about `read_input` (40_pin_bank.md R106, R108): its snapshot bit by bit, and that no event makes it report an
unknown bank. -/

namespace Sys2Proof.Machine

/-! The snapshot -/

/-- The state after a read of a bank: one answer of the environment for each input-marked pin, highest pin first. -/
theorem readInput_state {bank : Byte} (h : validBank bank = true) (s : State) :
    (readInput bank s).2 = { s with
      oracle := (s.oracle.digitalAnswers (inputPins bank (s.dir bank) (width bank)).length).2
      pinTrace := s.pinTrace ++ List.zipWith PinCall.digitalRead (inputPins bank (s.dir bank) (width bank))
        (s.oracle.digitalAnswers (inputPins bank (s.dir bank) (width bank)).length).1 } := by
  rw [readInput_valid h, readLoop_state bank _ _ _ (Nat.le_refl _)]

/-- A bit of the snapshot is 1 exactly where the position is an input below the width whose own pin answered 1: the
loop starts from 0, so nothing stands from the width on. -/
theorem readInput_bit {bank : Byte} (h : validBank bank = true) (s : State) {i : Nat} (hi : i < 8) :
    (readInput bank s).1.getLsbD i = true ↔
      i < width bank ∧ (s.dir bank).getLsbD i = true ∧ PinCall.digitalRead (digitalPin bank i) true ∈
        List.zipWith PinCall.digitalRead (inputPins bank (s.dir bank) (width bank))
          (s.oracle.digitalAnswers (inputPins bank (s.dir bank) (width bank)).length).1 := by
  rw [readInput_valid h, readLoop_bit bank _ _ _ (Nat.le_refl _) _ _ _ hi]
  split
  case isTrue hlt => simp only [hlt, true_and]
  case isFalse hge => simp [hge]

/-! The dispatcher -/

theorem dispatch_of_sel_bankA {s : State} (h : s.sel = 0#3) : dispatch s = respondDigital 0#8 s := by
  simp [dispatch, dispatchCode, ReadSelector.ofCode, h]

theorem dispatch_of_sel_bankB {s : State} (h : s.sel = 1#3) : dispatch s = respondDigital 1#8 s := by
  simp [dispatch, dispatchCode, ReadSelector.ofCode, h]

/-- Building a response emits no diagnostic, whatever SEL holds (42_read_dispatch.md R171 to R173). -/
@[simp] theorem dispatch_diagTrace (s : State) : (dispatch s).diagTrace = s.diagTrace := by
  rcases dispatch_cases s with ⟨-, h⟩ | ⟨-, h⟩ | ⟨k, -, h⟩
  · rw [h, respondDigital_valid (by decide)]
  · rw [h, respondDigital_valid (by decide)]
  · rw [h, respondAnalog_eq]

/-! The errors an event can record -/

/-- The decoder turns a message away for its length, its opcode or its argument, never for a bank. -/
theorem rejectError_ne_unknownBank (r : Reject) (bank : Byte) : rejectError r ≠ .unknownBank bank := by
  cases r <;> simp [rejectError]

/-- The errors in the record of a rejected message are those before it and its own. -/
theorem error_mem_rejectMessage {r : Reject} {s : State} {e : BlockError}
    (h : DiagEvent.error e ∈ (rejectMessage r s).diagTrace) : DiagEvent.error e ∈ s.diagTrace ∨ e = rejectError r := by
  cases r <;> simpa [rejectMessage] using h

/-- An instruction records no error. -/
theorem error_mem_of_exec {i : Instr} {s t : State} (h : exec i s = .next t) {e : BlockError}
    (he : DiagEvent.error e ∈ t.diagTrace) : DiagEvent.error e ∈ s.diagTrace := by
  obtain ⟨-, -, -, -, -, -, hfilter⟩ := exec_frame h
  have hmem : DiagEvent.error e ∈ t.diagTrace.filter DiagEvent.isError := List.mem_filter.2 ⟨he, rfl⟩
  rw [hfilter] at hmem
  exact (List.mem_filter.1 hmem).1

/-- An error recorded by an event is the one its message was rejected with. -/
theorem error_mem_of_step {s t : State} (hs : s.inbox ≠ []) (h : step s = .next t) {e : BlockError}
    (he : DiagEvent.error e ∈ t.diagTrace) : ∃ r : Reject, e = rejectError r := by
  rcases step_cases h with ⟨hi, -⟩ | ⟨m, rest, i, u, x, -, -, -, hx, rfl⟩ | ⟨m, rest, r, u, -, -, -, rfl⟩ |
    ⟨n, rest, -, rfl⟩ | ⟨a, b, rest, -, rfl⟩
  · exact absurd hi hs
  · have hstart := error_mem_of_exec hx he
    simp at hstart
  · rcases error_mem_rejectMessage he with hstart | hr
    · simp at hstart
    · exact ⟨r, hr⟩
  · simp at he
  · simp at he

/-- No event records an unknown bank (60_exceptions.md R201). -/
theorem step_never_records_unknownBank (bank : Byte) {s t : State} (hs : s.inbox ≠ []) (h : step s = .next t) :
    DiagEvent.error (.unknownBank bank) ∉ t.diagTrace := by
  intro hmem
  obtain ⟨r, hr⟩ := error_mem_of_step hs h hmem
  exact rejectError_ne_unknownBank r bank hr.symm

/-! The obligation -/

/-- Settles O11: the loop's state and its bits at the bank's own width, the bank check, the dispatcher's two digital
sources, and the errors an event can record. -/
theorem readInputSamplesEachInputPin : Obligations.ReadInputSamplesEachInputPin := by
  intro bank s
  refine ⟨fun hbank => ?sampled, fun h0 h1 => readInput_invalid (validBank_of_ne h0 h1) s,
    dispatch_of_sel_bankA, dispatch_of_sel_bankB, fun t hs h => step_never_records_unknownBank bank hs h⟩
  case sampled =>
    have hvalid := (validBank_iff bank).2 hbank
    exact ⟨readInput_state hvalid s, fun i hi => readInput_bit hvalid s hi⟩

end Sys2Proof.Machine
end

section
/-! Proofs about master reads (42_read_dispatch.md R170 to R173): what a request event answers while SEL is a digital bank
or an analog channel. -/

namespace Sys2Proof.Machine

/-! The source SEL names -/

/-- SEL names the bank: the two digital sources in one equation (42_read_dispatch.md R171, R172). -/
theorem dispatch_of_sel_bank {bank : Byte} {s : State} (hbank : bank = 0#8 ∨ bank = 1#8)
    (hsel : s.sel = if bank = 0#8 then 0#3 else 1#3) : dispatch s = respondDigital bank s := by
  rcases hbank with rfl | rfl
  · exact dispatch_of_sel_bankA hsel
  · exact dispatch_of_sel_bankB hsel

/-- SEL names the analog channel (42_read_dispatch.md R173). -/
theorem dispatch_of_sel_analog {k : Fin 6} {s : State} (hsel : s.sel.toNat = k.val + 2) :
    dispatch s = respondAnalog k s := by
  rcases dispatch_cases s with ⟨h, -⟩ | ⟨h, -⟩ | ⟨j, hj, hd⟩
  · simp [h] at hsel
  · simp [h] at hsel
  · obtain rfl : j = k := Fin.ext (by omega)
    exact hd

/-! A digital source -/

/-- With no position marked as input there is no pin to sample. -/
@[simp] theorem inputPins_zero (bank : Byte) (w : Nat) : inputPins bank 0#8 w = [] := by
  simp [inputPins]

/-- With no position marked as input the snapshot is 0: every 1 in it stands at an input. -/
theorem readInput_eq_zero {bank : Byte} (h : validBank bank = true) {s : State} (hdir : s.dir bank = 0#8) :
    (readInput bank s).1 = 0#8 := by
  refine BitVec.eq_of_getLsbD_eq fun i hi => Bool.eq_iff_iff.2 ?_
  rw [readInput_bit h s hi, hdir]
  simp

/-- The byte 0 follows a raise of UnknownBank (42_read_dispatch.md R171). -/
theorem respondDigital_invalid {bank : Byte} (h : validBank bank = false) (s : State) :
    respondDigital bank s = (s.raise (.unknownBank bank)).txBytes [0#8] := by
  simp [respondDigital, readInput_invalid h]

/-- The step of a master read of a digital bank: the snapshot's calls and its one byte. -/
theorem step_request_digital {bank : Byte} {s : State} {n : Nat} {rest : List Event} (hbank : bank = 0#8 ∨ bank = 1#8)
    (hi : s.inbox = .request n :: rest) (hsel : s.sel = if bank = 0#8 then 0#3 else 1#3) :
    step s = .next ({ s.beginEvent rest with
      oracle := (s.oracle.digitalAnswers (inputPins bank (s.dir bank) (width bank)).length).2
      pinTrace := List.zipWith PinCall.digitalRead (inputPins bank (s.dir bank) (width bank))
        (s.oracle.digitalAnswers (inputPins bank (s.dir bank) (width bank)).length).1
      response := [(readInput bank (s.beginEvent rest)).1] }.masterReads n) := by
  rw [step_request hi, dispatch_of_sel_bank (s := s.beginEvent rest) hbank hsel,
    respondDigital_valid ((validBank_iff bank).2 hbank)]
  rfl

/-! An analog source -/

/-- The step of a master read of an analog channel. -/
theorem step_request_analog {k : Fin 6} {s : State} {n : Nat} {rest : List Event} (hi : s.inbox = .request n :: rest)
    (hsel : s.sel.toNat = k.val + 2) : step s = .next ((respondAnalog k (s.beginEvent rest)).masterReads n) := by
  rw [step_request hi, dispatch_of_sel_analog (s := s.beginEvent rest) hsel]

/-- The pins of the six channels as a list (20_memory.md R52). -/
theorem analogPin_eq_getD (k : Fin 6) : analogPin k = [23, 24, 25, 26, 29, 30].getD k.val 0 := by
  revert k
  decide

/-- A sample is below 1024, so the two high bytes of its answer are 0 (20_memory.md R59). -/
theorem sampleBytes_eq (v : BitVec 10) :
    sampleBytes v = [0x00#8, 0x00#8, BitVec.ofNat 8 (v.toNat / 256), BitVec.ofNat 8 (v.toNat % 256)] := by
  have hv := v.isLt
  simp only [sampleBytes, List.cons.injEq, ← BitVec.toNat_inj, BitVec.extractLsb'_toNat, BitVec.toNat_setWidth,
    BitVec.toNat_ofNat, Nat.shiftRight_eq_div_pow, and_true]
  omega

/-! The obligations -/

/-- Settles O14: the calls and the bits are those of `read_input` at the bank's own width; with a mask of 0 no
pin is left to sample and no bit is set. For an invalid bank the byte is the 0 that `read_input` returns. -/
theorem digitalReadsAnswerOneSnapshotByte : Obligations.DigitalReadsAnswerOneSnapshotByte := by
  refine ⟨fun bank s n rest hbank hi hsel => ?snapshot, fun bank s h0 h1 => ?invalid⟩
  case snapshot =>
    have hvalid := (validBank_iff bank).2 hbank
    refine ⟨_, _, step_request_digital hbank hi hsel, rfl, rfl, rfl, rfl,
      pins_of_recorded_reads (digitalAnswers_length _ _), fun c => form_of_recorded_reads,
      fun i h8 => readInput_bit hvalid (s.beginEvent rest) h8, fun hdir => ⟨readInput_eq_zero hvalid hdir, ?_⟩⟩
    simp [hdir]
  case invalid =>
    rw [respondDigital_invalid (validBank_of_ne h0 h1)]
    rfl

/-- Settles O15: the answer is built from the channel and the sample alone, so the masks pass through the step. -/
theorem analogReadsAnswerFourBytesBigEndian : Obligations.AnalogReadsAnswerFourBytesBigEndian := by
  intro k s n rest hi hsel
  refine ⟨_, _, step_request_analog hi hsel, rfl, ?calls, ?bytes, rfl, rfl, rfl, fun a b => ?masks⟩
  case calls => rw [← analogPin_eq_getD]; rfl
  case bytes => exact sampleBytes_eq _
  case masks => exact step_request_analog (s := { s with dirA := a, dirB := b }) hi hsel

end Sys2Proof.Machine
end

section
/-! Proofs about the error UnknownBank (60_exceptions.md R201): what the operations of the register file do with a bank id
outside 0 and 1. -/

namespace Sys2Proof.Machine

/-- Settles O13: an invalid bank id fails the one check of each operation, which leaves only the raise; and the errors
an event can record are those of the decoder, none of which is about a bank. -/
theorem unknownBankIsANoOpAndUnreachable : Obligations.UnknownBankIsANoOpAndUnreachable := by
  refine ⟨fun bank x s h0 h1 => ?noOp, fun bank s t hs h => step_never_records_unknownBank bank hs h⟩
  case noOp =>
    have hinvalid := validBank_of_ne h0 h1
    exact ⟨configure_invalid hinvalid x s, writeOutput_invalid hinvalid x s, readInput_invalid hinvalid s⟩

end Sys2Proof.Machine
end

section
/-! Proofs about the encoding (30_encoding.md R70 to R81): `decode` inverts `encode`, what every message decodes to, and
the bytes an assembly line stands for. -/

namespace Sys2Proof.Machine

/-! Encodings -/

/-- The two formats of an encoding, W2 and W1: an argument opcode with its byte, or a select opcode alone. -/
theorem encode_cases (i : Instr) :
    (∃ op arg, encode i = [op, arg] ∧ argCommand? op arg = some i) ∨
    (∃ op, encode i = [op] ∧ selectCommand? op = some i) := by
  cases i with
  | cfgA arg | cfgB arg | outA arg | outB arg => exact .inl ⟨_, arg, rfl, rfl⟩
  | selDA | selDB | selAN0 | selAN1 | selAN2 | selAN3 | selAN4 | selAN5 => exact .inr ⟨_, rfl, rfl⟩

theorem encode_of_argCommand? {op arg : Byte} {i : Instr} (h : argCommand? op arg = some i) : encode i = [op, arg] := by
  unfold argCommand? at h
  split at h <;> cases h <;> rfl

theorem encode_of_selectCommand? {op : Byte} {i : Instr} (h : selectCommand? op = some i) : encode i = [op] := by
  unfold selectCommand? at h
  split at h <;> cases h <;> rfl

theorem mem_argumentOpcodes_of_argCommand? {op arg : Byte} {i : Instr} (h : argCommand? op arg = some i) :
    op ∈ argumentOpcodes := by
  unfold argCommand? at h
  split at h
  all_goals simp_all [argumentOpcodes]

theorem mem_selectOpcodes_of_selectCommand? {op : Byte} {i : Instr} (h : selectCommand? op = some i) :
    op ∈ selectOpcodes := by
  by_contra hn
  simp [(selectCommand?_eq_none_iff op).2 hn] at h

theorem exists_argCommand? {op : Byte} (h : op ∈ argumentOpcodes) (arg : Byte) : ∃ i, argCommand? op arg = some i := by
  fin_cases h <;> exact ⟨_, rfl⟩

theorem exists_selectCommand? {op : Byte} (h : op ∈ selectOpcodes) : ∃ i, selectCommand? op = some i :=
  Option.ne_none_iff_exists'.1 fun hn => (selectCommand?_eq_none_iff op).1 hn h

/-- An argument opcode consumes its byte and leaves what follows (41_decoder.md R133). -/
theorem decodeOpcode_argument {op arg : Byte} {i : Instr} (h : argCommand? op arg = some i) (u : List Byte) :
    decodeOpcode op (arg :: u) = .command i u := by
  have hr := (requiresArg_iff_mem op).2 (mem_argumentOpcodes_of_argCommand? h)
  simp [decodeOpcode, hr, h, commandOrUnknown]

/-- The messages that run a command are its encoding followed by at most what fits in 2 bytes. -/
theorem decode_eq_command_iff (m u : List Byte) (i : Instr) :
    decode m = .command i u ↔ m = encode i ++ u ∧ m.length ≤ 2 := by
  constructor
  · intro h
    rcases decode_cases m with ⟨op, tail, rfl, htail, hd⟩ | ⟨-, -, hd⟩
    · refine ⟨?_, Nat.succ_le_succ htail⟩
      rcases decodeOpcode_eq_command (hd ▸ h) with ⟨arg, rfl, harg⟩ | ⟨rfl, hsel⟩
      · rw [encode_of_argCommand? harg]; rfl
      · rw [encode_of_selectCommand? hsel]; rfl
    · simp [hd] at h
  · rintro ⟨rfl, hlen⟩
    rcases encode_cases i with ⟨op, arg, he, harg⟩ | ⟨op, he, hsel⟩
    · obtain rfl : u = [] := by simpa [he] using hlen
      rw [he]
      exact decodeOpcode_argument harg []
    · rw [he] at hlen ⊢
      rw [List.singleton_append, decode_cons op (by simpa using hlen), decodeOpcode_select hsel]

/-- Everything a message can decode to, by the precedence of 60_exceptions.md R208: a bad length, an illegal byte 0, an
argument opcode alone, or a command's encoding. -/
theorem message_cases (m : List Byte) :
    (m.length ≠ 1 ∧ m.length ≠ 2 ∧ decode m = .rejected (.invalidMessageLength m.length) []) ∨
    (∃ op tail, m = op :: tail ∧ tail.length ≤ 1 ∧ illegalOpcode op = true ∧
      decode m = .rejected (.unknownOpcode op) tail) ∨
    (∃ op, m = [op] ∧ op ∈ argumentOpcodes ∧ decode m = .rejected (.truncatedArgument op) []) ∨
    (∃ i u, m = encode i ++ u ∧ m.length ≤ 2 ∧ decode m = .command i u) := by
  rcases decode_cases m with ⟨op, tail, rfl, htail, hd⟩ | hbad
  · right
    cases hop : illegalOpcode op with
    | true => exact .inl ⟨op, tail, rfl, htail, hop, hd.trans (decodeOpcode_illegal hop tail)⟩
    | false =>
      have command {i u} (h : decodeOpcode op tail = .command i u) : ∃ i u, op :: tail = encode i ++ u ∧
          (op :: tail).length ≤ 2 ∧ decode (op :: tail) = .command i u :=
        have hc := hd.trans h
        ⟨i, u, ((decode_eq_command_iff _ _ _).1 hc).1, Nat.succ_le_succ htail, hc⟩
      rcases (illegalOpcode_eq_false_iff op).1 hop with harg | hsel
      · cases tail with
        | nil =>
          have hr := (requiresArg_iff_mem op).2 harg
          exact .inr (.inl ⟨op, rfl, harg, hd.trans (decodeOpcode_truncated hr)⟩)
        | cons arg u =>
          obtain ⟨i, hi⟩ := exists_argCommand? harg arg
          exact .inr (.inr (command (decodeOpcode_argument hi u)))
      · obtain ⟨i, hi⟩ := exists_selectCommand? hsel
        exact .inr (.inr (command (decodeOpcode_select hi tail)))
  · exact .inl hbad

/-! The obligations -/

/-- Settles O35: the decoder's two ways to a command, and back by the format of each command's encoding. -/
theorem decodeInvertsEncode : Obligations.DecodeInvertsEncode :=
  decode_eq_command_iff

/-- Settles O36: the seven words are decoded one by one. -/
theorem sampleWordsDecode : Obligations.SampleWordsDecode :=
  ⟨rfl, rfl, rfl, rfl, rfl, rfl, rfl⟩

/-- Settles O39: a line's operand check decides, then each mnemonic has the encoding of its command. -/
theorem assemblerAcceptsExactlyEightBitOperands : Obligations.AssemblerAcceptsExactlyEightBitOperands := by
  refine ⟨fun m n => ?literal, fun m => ?bare⟩
  case literal =>
    by_cases hn : n < 256
    · rw [if_pos hn]
      cases m <;> simp [transactionOf, commandOf, operandOk, Mnemonic.takesOperand, hn, encode, opcodeOf, argBytesOf,
        i2cAddr]
    · rw [if_neg hn]
      simp [transactionOf, commandOf, operandOk, hn]
  case bare => cases m <;> rfl

end Sys2Proof.Machine
end

section
/-! Proofs about the configure and output commands (41_decoder.md, sections 2 and 4) and the operations behind them
(40_pin_bank.md R101, R104): their calls, the masks they leave, and what they leave unchanged. -/

namespace Sys2Proof.Machine

/-! Masks -/

/-- "Reduced to its low 4 bits" as a mask (40_pin_bank.md R101). -/
theorem reduceMask_bankB (mask : Byte) : reduceMask 1#8 mask = mask &&& 0x0F#8 := by
  have hmod := Nat.and_two_pow_sub_one_eq_mod mask.toNat 4
  refine BitVec.eq_of_toNat_eq ?_
  simp [reduceMask] at hmod ⊢
  omega

theorem getLsbD_reduceMask_bankB (mask : Byte) (i : Nat) :
    (reduceMask 1#8 mask).getLsbD i = (decide (i < 4) && mask.getLsbD i) := by
  by_cases hi : i < 4
  · simp [reduceMask, hi, Nat.lt_of_lt_of_le hi]
  · simp [reduceMask, hi]

/-- Bank B stores the low 4 bits of the reduced mask, which are those of the mask. -/
theorem extractLsb'_reduceMask_bankB (mask : Byte) : (reduceMask 1#8 mask).extractLsb' 0 4 = mask.extractLsb' 0 4 := by
  refine BitVec.eq_of_getLsbD_eq fun i hi => ?_
  simp [getLsbD_reduceMask_bankB, hi]

/-- The mask a bank holds after `configure` is the reduced mask. -/
theorem configure_dir {bank : Byte} (hbank : bank = 0#8 ∨ bank = 1#8) (mask : Byte) (s : State) :
    (configure bank mask s).dir bank = reduceMask bank mask := by
  rw [configure_valid ((validBank_iff bank).2 hbank)]
  rcases hbank with rfl | rfl
  · rfl
  · simp [extractLsb'_reduceMask_bankB]
    rfl

/-- Bank B's view holds nothing at the positions from 4 on. -/
theorem getLsbD_dir_bankB_high (s : State) {i : Nat} (hi : 4 ≤ i) : (s.dir 1#8).getLsbD i = false := by
  simp [BitVec.getLsbD_of_ge s.dirB i hi]

/-! Modes and calls -/

@[simp] theorem width_bankA : width 0#8 = 8 := rfl
@[simp] theorem width_bankB : width 1#8 = 4 := rfl
@[simp] theorem digitalPin_bankA (i : Nat) : digitalPin 0#8 i = 2 + i := rfl
@[simp] theorem digitalPin_bankB (i : Nat) : digitalPin 1#8 i = 10 + i := rfl

/-- The positions of the banks are on pins 2..13 (20_memory.md R51). -/
theorem digitalPin_range {bank : Byte} (hbank : bank = 0#8 ∨ bank = 1#8) {i : Nat} (hi : i < width bank) :
    2 ≤ digitalPin bank i ∧ digitalPin bank i ≤ 13 := by
  rcases hbank with rfl | rfl
  · rw [width_bankA] at hi
    rw [digitalPin_bankA]
    omega
  · rw [width_bankB] at hi
    rw [digitalPin_bankB]
    omega

/-- A position of the bank is on a pin up to PIN_LIMIT, so its mode is its mask bit. -/
theorem configureMode_of_lt_width {bank : Byte} (hbank : bank = 0#8 ∨ bank = 1#8) (m : Byte) {i : Nat}
    (hi : i < width bank) : configureMode bank m i = if m.getLsbD i then .input else .output := by
  simp [configureMode, pinLimit, (digitalPin_range hbank hi).2]

/-- A position past Bank B's width is made an output: the reduced mask has no bit there. -/
theorem configureMode_bankB_high (mask : Byte) {i : Nat} (hi : 4 ≤ i) :
    configureMode 1#8 (reduceMask 1#8 mask) i = .output := by
  simp [configureMode, getLsbD_reduceMask_bankB, Nat.not_lt.2 hi]

theorem configureCalls_succ (bank m : Byte) (n : Nat) :
    configureCalls bank m (n + 1) =
      configureCalls bank m n ++ [PinCall.pinMode (digitalPin bank n) (configureMode bank m n)] := by
  simp [configureCalls, List.range_succ]

theorem writeCalls_succ (bank d data : Byte) (n : Nat) :
    writeCalls bank d data (n + 1) = writeCalls bank d data n ++
      if d.getLsbD n then [] else [PinCall.digitalWrite (digitalPin bank n) (data.getLsbD n)] := by
  simp only [writeCalls, List.range_succ, List.filterMap_append]
  split <;> simp [*]

theorem configureScan_ge_width {bank : Byte} (hbank : bank = 0#8 ∨ bank = 1#8) (p : Params) :
    width bank ≤ configureScan p bank := by
  rcases hbank with rfl | rfl
  · exact Nat.le_refl 8
  · change 4 ≤ p.cfgScanB.bits
    cases p.cfgScanB with
    | four => exact Nat.le_refl 4
    | eight => decide

/-- The calls of `configure` on a bank's own positions, the mode read off the mask as given. -/
theorem configureCalls_width {bank : Byte} (hbank : bank = 0#8 ∨ bank = 1#8) (mask : Byte) :
    configureCalls bank (reduceMask bank mask) (width bank) = (List.range (width bank)).map fun i =>
      .pinMode (digitalPin bank i) (if mask.getLsbD i then .input else .output) := by
  refine List.map_congr_left fun i hi => ?_
  rw [List.mem_range] at hi
  rw [configureMode_of_lt_width hbank _ hi]
  rcases hbank with rfl | rfl
  · rfl
  · have hi4 : i < 4 := hi
    simp [getLsbD_reduceMask_bankB, hi4]

/-- The scan of Bank B: its own four positions and, with `CFG_SCAN_B = 8`, four outputs (D4). -/
theorem configureCalls_bankB (mask : Byte) (p : Params) :
    configureCalls 1#8 (reduceMask 1#8 mask) (configureScan p 1#8) =
      ((List.range 4).map fun i => PinCall.pinMode (10 + i) (if mask.getLsbD i then .input else .output)) ++
      (if p.cfgScanB = .eight then
        [PinCall.pinMode 14 .output, PinCall.pinMode 15 .output, PinCall.pinMode 16 .output,
          PinCall.pinMode 17 .output] else []) := by
  have hwidth := configureCalls_width (.inr rfl) mask
  cases hp : p.cfgScanB with
  | four => simpa [configureScan, hp, ScanWidth.bits] using hwidth
  | eight =>
    have hhigh := fun i hi => configureMode_bankB_high mask (i := i) hi
    have hscan (m : Byte) : configureCalls 1#8 m 8 = configureCalls 1#8 m 4 ++
        [PinCall.pinMode 14 (configureMode 1#8 m 4), PinCall.pinMode 15 (configureMode 1#8 m 5),
          PinCall.pinMode 16 (configureMode 1#8 m 6), PinCall.pinMode 17 (configureMode 1#8 m 7)] := rfl
    simpa [configureScan, hp, ScanWidth.bits, hscan, hhigh] using hwidth

/-- The last call on a pin, when one more call is made. -/
theorem lastCallOn_concat (pin : Nat) (trace : List PinCall) (c : PinCall) :
    lastCallOn pin (trace ++ [c]) = if c.pin = pin then some c else lastCallOn pin trace := by
  simp only [lastCallOn, List.reverse_append, List.reverse_singleton, List.singleton_append, List.find?_cons]
  split <;> simp_all

/-- Each pin is called once in a scan, so its mode is the one its position got. -/
theorem lastCallOn_configureCalls (bank m : Byte) (trace : List PinCall) {i n : Nat} (hi : i < n) :
    lastCallOn (digitalPin bank i) (trace ++ configureCalls bank m n) =
      some (.pinMode (digitalPin bank i) (configureMode bank m i)) := by
  induction n with
  | zero => omega
  | succ n ih =>
    rw [configureCalls_succ, ← List.append_assoc, lastCallOn_concat]
    by_cases hn : i = n
    · subst hn; simp
    · have hpin : digitalPin bank n ≠ digitalPin bank i := by simp only [digitalPin]; omega
      simp [hpin, ih (by omega)]

/-- The calls of `write_output` on Bank B: its own four positions and, with `WR_SCAN_B = 8`, all four pins after them,
which no mask marks as input (D5). -/
theorem writeCalls_bankB (s : State) (data : Byte) :
    writeCalls 1#8 (s.dir 1#8) data (writeScan s.params 1#8) =
      ((List.range 4).filterMap fun i =>
        if s.dirB.getLsbD i then none else some (PinCall.digitalWrite (10 + i) (data.getLsbD i))) ++
      (if s.params.wrScanB = .eight then
        [PinCall.digitalWrite 14 (data.getLsbD 4), PinCall.digitalWrite 15 (data.getLsbD 5),
          PinCall.digitalWrite 16 (data.getLsbD 6), PinCall.digitalWrite 17 (data.getLsbD 7)] else []) := by
  have hwidth : writeCalls 1#8 (s.dir 1#8) data 4 = (List.range 4).filterMap fun i =>
      if s.dirB.getLsbD i then none else some (PinCall.digitalWrite (10 + i) (data.getLsbD i)) := by
    refine List.filterMap_congr fun i hi => ?_
    have hi8 : i < 8 := Nat.lt_trans (List.mem_range.1 hi) (by decide)
    simp [hi8]
  cases hp : s.params.wrScanB with
  | four => simpa [writeScan, hp, ScanWidth.bits] using hwidth
  | eight =>
    have hhigh := fun i hi => getLsbD_dir_bankB_high s (i := i) hi
    have hscan : writeCalls 1#8 (s.dir 1#8) data 8 = writeCalls 1#8 (s.dir 1#8) data 4 ++
        [PinCall.digitalWrite 14 (data.getLsbD 4), PinCall.digitalWrite 15 (data.getLsbD 5),
          PinCall.digitalWrite 16 (data.getLsbD 6), PinCall.digitalWrite 17 (data.getLsbD 7)] := by
      rw [writeCalls_succ, writeCalls_succ, writeCalls_succ, writeCalls_succ, hhigh 4 (by decide), hhigh 5 (by decide),
        hhigh 6 (by decide), hhigh 7 (by decide)]
      simp
    simp [writeScan, hp, ScanWidth.bits, hscan, hwidth, -State.dir_bankB]

/-! What the operations do to the state -/

/-- The state after `configure`: the calls, the reduced mask, the diagnostic (40_pin_bank.md R101). -/
theorem configure_pinTrace {bank : Byte} (hbank : bank = 0#8 ∨ bank = 1#8) (mask : Byte) (s : State) :
    (configure bank mask s).pinTrace =
      s.pinTrace ++ configureCalls bank (reduceMask bank mask) (configureScan s.params bank) := by
  simp [configure_valid ((validBank_iff bank).2 hbank)]

@[simp] theorem configure_params (bank mask : Byte) (s : State) : (configure bank mask s).params = s.params := by
  unfold configure
  split <;> simp

/-- A second `configure` with the same mask finds the mask it stores. -/
theorem configure_regs_repeat {bank : Byte} (hbank : bank = 0#8 ∨ bank = 1#8) (mask : Byte) (s : State) :
    (configure bank mask (configure bank mask s)).regs = (configure bank mask s).regs := by
  rw [configure_valid ((validBank_iff bank).2 hbank), configure_valid ((validBank_iff bank).2 hbank)]
  rcases hbank with rfl | rfl <;> rfl

theorem writeOutput_pinTrace {bank : Byte} (hbank : bank = 0#8 ∨ bank = 1#8) (data : Byte) (s : State) :
    (writeOutput bank data s).pinTrace = s.pinTrace ++ writeCalls bank (s.dir bank) data (writeScan s.params bank) := by
  simp [writeOutput_valid ((validBank_iff bank).2 hbank)]

@[simp] theorem writeOutput_regs (bank data : Byte) (s : State) : (writeOutput bank data s).regs = s.regs := by
  unfold writeOutput
  split <;> rfl

@[simp] theorem writeOutput_inbox (bank data : Byte) (s : State) : (writeOutput bank data s).inbox = s.inbox := by
  unfold writeOutput
  split <;> rfl

/-- Both traces only grow: an instruction appends to them (00_scope.md R14, R15). -/
theorem exec_traces_grow {i : Instr} {s t : State} (h : exec i s = .next t) :
    s.pinTrace <+: t.pinTrace ∧ s.diagTrace <+: t.diagTrace := by
  rcases exec_cases i with ⟨_, -, e⟩ | ⟨_, -, e⟩ | ⟨_, -, e⟩ | ⟨_, -, e⟩ | ⟨_, -, e⟩
  all_goals rw [e] at h; injection h with h; subst h
  · simp [configure_valid (bank := 0#8) (by decide), State.diag]
  · simp [configure_valid (bank := 1#8) (by decide), State.diag]
  · simp [writeOutput_valid (bank := 0#8) (by decide)]
  · simp [writeOutput_valid (bank := 1#8) (by decide)]
  · simp

/-! The obligations -/

/-- Settles O1: the scan of bank 0 is its own eight positions. -/
theorem cfgACompletesWithItsModesAndMask : Obligations.CfgACompletesWithItsModesAndMask := by
  intro arg s
  have hcalls : configureCalls 0#8 (reduceMask 0#8 arg) (configureScan s.params 0#8) = (List.range 8).map fun i =>
      PinCall.pinMode (2 + i) (if arg.getLsbD i then .input else .output) := configureCalls_width (.inl rfl) arg
  change Host.Outcome.next (configure 0#8 arg s) = _
  rw [configure_valid (by decide), hcalls]
  rfl

/-- Settles O2: the scan of Bank B, and the reduced mask as stored and as reported. -/
theorem cfgBCompletesWithItsModesAndMask : Obligations.CfgBCompletesWithItsModesAndMask := by
  intro arg s
  change Host.Outcome.next (configure 1#8 arg s) = _
  rw [configure_valid (by decide), configureCalls_bankB, State.setDir_bankB, extractLsb'_reduceMask_bankB,
    reduceMask_bankB, List.append_assoc]
  rfl

/-- Settles O3: bank 0 is scanned at its width with DIR_A as the mask. -/
theorem outACompletesDrivingOutputs : Obligations.OutACompletesDrivingOutputs :=
  fun _ _ => rfl

/-- Settles O4: the scan of Bank B under its byte view. -/
theorem outBCompletesDrivingOutputs : Obligations.OutBCompletesDrivingOutputs := by
  intro arg s
  change Host.Outcome.next (writeOutput 1#8 arg s) = _
  rw [writeOutput_valid (by decide), writeCalls_bankB, List.append_assoc]
  rfl

/-- Settles O6: what no instruction touches, and the mask of the other bank. -/
theorem configureCommandsFrame : Obligations.ConfigureCommandsFrame := by
  intro i arg s t hi h
  obtain ⟨hrx, hresponse, hmaster, hinbox, horacle, hparams, -⟩ := exec_frame h
  obtain ⟨hpins, hdiags⟩ := exec_traces_grow h
  suffices hregs : (i = .cfgB arg → t.dirA = s.dirA) ∧ (i = .cfgA arg → t.dirB = s.dirB) ∧ t.sel = s.sel from
    ⟨hregs.1, hregs.2.1, hregs.2.2, hrx, hresponse, hmaster, hinbox, horacle, hparams, hpins, hdiags⟩
  rcases hi with rfl | rfl
  · cases h
    exact ⟨nofun, fun _ => rfl, rfl⟩
  · cases h
    exact ⟨fun _ => rfl, nofun, rfl⟩

/-- Settles O7: what no instruction touches, and `write_output` writes no register. -/
theorem outputCommandsFrame : Obligations.OutputCommandsFrame := by
  intro i arg s t hi h
  obtain ⟨hrx, hresponse, hmaster, hinbox, horacle, hparams, -⟩ := exec_frame h
  obtain ⟨hpins, hdiags⟩ := exec_traces_grow h
  have hregs : t.regs = s.regs := by
    rcases hi with rfl | rfl
    · cases h
      exact writeOutput_regs 0#8 arg s
    · cases h
      exact writeOutput_regs 1#8 arg s
  exact ⟨hregs, hrx, hresponse, hmaster, hinbox, horacle, hparams, hpins, hdiags⟩

/-- Settles O8: each position's pin is called once, with the mode of its bit of the reduced mask. -/
theorem configureLeavesModesMatchingDir : Obligations.ConfigureLeavesModesMatchingDir := by
  intro bank mask s hbank
  rw [configure_dir hbank]
  refine ⟨?stored, fun i hi => ?mode⟩
  case stored =>
    rcases hbank with rfl | rfl
    · rfl
    · exact reduceMask_bankB mask
  case mode =>
    have hscanned := Nat.lt_of_lt_of_le hi (configureScan_ge_width hbank s.params)
    rw [configure_pinTrace hbank, lastCallOn_configureCalls _ _ _ hscanned, configureMode_of_lt_width hbank _ hi]

/-- Settles O9: the calls are a function of the bank, the mask and the parameters. -/
theorem configureRepeatsItsCalls : Obligations.ConfigureRepeatsItsCalls := by
  intro bank mask s s' hbank hparams
  refine ⟨_, ?enough, configure_pinTrace hbank mask s, ?other, ?again, configure_regs_repeat hbank mask s⟩
  case enough => simpa [configureCalls] using configureScan_ge_width hbank s.params
  case other => rw [configure_pinTrace hbank, hparams]
  case again => rw [configure_pinTrace hbank, configure_pinTrace hbank, configure_params]

/-- Settles O10: a call is on the pin of a position that the mask marks as output, and positions have pins of their
own. -/
theorem writeNeverTouchesAnInput : Obligations.WriteNeverTouchesAnInput := by
  intro bank data s i hbank _ hinput
  refine ⟨_, writeOutput_pinTrace hbank data s, fun c hc hpin => ?_⟩
  obtain ⟨j, -, houtput, rfl⟩ := mem_writeCalls.1 hc
  obtain rfl : j = i := by
    simp only [PinCall.pin_digitalWrite, digitalPin] at hpin
    omega
  simp [houtput] at hinput

/-- Settles O12: a bit of the result that is 1 stands at an input-marked position below the width. -/
theorem readInputFitsWidthAndMask : Obligations.ReadInputFitsWidthAndMask := by
  intro bank s hbank
  have hbit := fun i hi => readInput_bit ((validBank_iff bank).2 hbank) s (i := i) hi
  refine ⟨BitVec.eq_of_getLsbD_eq fun i hi => ?masked, fun hB => ?bound⟩
  case masked =>
    cases hr : (readInput bank s).1.getLsbD i with
    | false => simp [hr]
    | true =>
      obtain ⟨-, hinput, -⟩ := (hbit i hi).1 hr
      simp [hinput]
  case bound =>
    refine Nat.le_of_lt_succ (Nat.lt_pow_two_of_testBit (n := 4) _ fun i hi => ?_)
    rw [BitVec.testBit_toNat, Bool.eq_false_iff]
    intro hr
    obtain ⟨hlt, -, -⟩ := (hbit i (BitVec.lt_of_getLsbD hr)).1 hr
    subst hB
    exact absurd hlt (Nat.not_lt.2 hi)

end Sys2Proof.Machine
end

section
/-! Proofs about the request event (42_read_dispatch.md R170 to R176; 20_memory.md R58): which pins a read samples, how
long its response is, what it leaves unchanged and what the master receives. -/

namespace Sys2Proof.Machine

/-! What the environment's draws leave in place -/

@[simp] theorem Oracle.nextDigital_fill (o : Oracle) : o.nextDigital.2.fill = o.fill := by
  unfold Oracle.nextDigital
  split <;> rfl

@[simp] theorem Oracle.nextAnalog_fill (o : Oracle) : o.nextAnalog.2.fill = o.fill := by
  unfold Oracle.nextAnalog
  split <;> rfl

@[simp] theorem Oracle.digitalAnswers_fill (k : Nat) (o : Oracle) : (o.digitalAnswers k).2.fill = o.fill := by
  induction k generalizing o with
  | zero => rfl
  | succ k ih => simp [Oracle.digitalAnswers, ih]

/-- Fill bytes that are lined up come first, in order (20_memory.md R58). -/
theorem Oracle.fillBytes_eq_take (k : Nat) (o : Oracle) (h : k ≤ o.fill.length) :
    (o.fillBytes k).1 = o.fill.take k := by
  induction k generalizing o with
  | zero => rfl
  | succ k ih =>
    match hfill : o.fill with
    | [] => simp [hfill] at h
    | v :: rest =>
      have hnext : o.nextFill = (v, { o with fill := rest }) := by simp [Oracle.nextFill, hfill]
      have hk : k ≤ rest.length := by simpa [hfill] using h
      simp [Oracle.fillBytes, hnext, ih { o with fill := rest } hk]

/-! The dispatcher -/

/-- The pins a read samples, in call order: the input-marked pins of the selected bank, or the selected channel's. -/
def Regs.readPins (r : Regs) : List Nat :=
  match ReadSelector.ofCode r.sel.toNat with
  | some .digitalBankA => inputPins 0#8 r.dirA 8
  | some .digitalBankB => inputPins 1#8 (r.dirB.setWidth 8) 4
  | some (.analogChannel k) => [analogPin k]
  | none => []

/-- Building a response writes no register and leaves the message, the master's view, the waiting events, the fill bytes
and the parameters as they are (42_read_dispatch.md R170). -/
theorem dispatch_frame (s : State) :
    (dispatch s).regs = s.regs ∧ (dispatch s).rx = s.rx ∧ (dispatch s).masterRx = s.masterRx ∧
    (dispatch s).inbox = s.inbox ∧ (dispatch s).params = s.params ∧ (dispatch s).oracle.fill = s.oracle.fill := by
  rcases dispatch_cases s with ⟨-, h⟩ | ⟨-, h⟩ | ⟨k, -, h⟩
  · rw [h, respondDigital_valid (by decide)]
    simp [State.regs]
  · rw [h, respondDigital_valid (by decide)]
    simp [State.regs]
  · rw [h, respondAnalog_eq]
    simp [State.regs]

/-- The response is 1 byte from a digital source and 4 from an analog one (42_read_dispatch.md R171 to R173). -/
theorem dispatch_response_length (s : State) :
    (dispatch s).response.length = s.response.length + if s.sel.toNat ≤ 1 then 1 else 4 := by
  rcases dispatch_cases s with ⟨hsel, h⟩ | ⟨hsel, h⟩ | ⟨k, hsel, h⟩
  · rw [h, respondDigital_valid (by decide)]
    simp [hsel]
  · rw [h, respondDigital_valid (by decide)]
    simp [hsel]
  · rw [h, respondAnalog_eq]
    simp [hsel, sampleBytes]

/-- The calls of a read are on the pins its registers name, whatever they answer. -/
theorem dispatch_pins (s : State) :
    (dispatch s).pinTrace.map PinCall.pin = s.pinTrace.map PinCall.pin ++ s.regs.readPins := by
  rcases dispatch_cases s with ⟨hsel, h⟩ | ⟨hsel, h⟩ | ⟨k, hsel, h⟩
  · rw [h, respondDigital_valid (by decide)]
    simp [Regs.readPins, State.regs, hsel, ReadSelector.ofCode, pins_of_recorded_reads (digitalAnswers_length _ _)]
  · rw [h, respondDigital_valid (by decide)]
    simp [Regs.readPins, State.regs, hsel, ReadSelector.ofCode, pins_of_recorded_reads (digitalAnswers_length _ _)]
  · rw [h, respondAnalog_eq]
    simp [Regs.readPins, State.regs, hsel, ReadSelector.ofCode]

/-! Steps -/

/-- The step of a master read: its registers, its length, its pins, and nothing reported. -/
theorem step_request_spec {s : State} {n : Nat} {rest : List Event} (hi : s.inbox = .request n :: rest) :
    ∃ t, step s = .next t ∧ t.regs = s.regs ∧ t.params = s.params ∧ t.inbox = rest ∧ t.rx = s.rx ∧ t.diagTrace = [] ∧
      t.response.length = (if s.sel.toNat ≤ 1 then 1 else 4) ∧ t.pinTrace.map PinCall.pin = s.regs.readPins := by
  obtain ⟨hregs, hrx, -, hinbox, hparams, -⟩ := dispatch_frame (s.beginEvent rest)
  exact ⟨_, step_request hi, hregs, hparams, hinbox, hrx, dispatch_diagTrace (s.beginEvent rest),
    (dispatch_response_length (s.beginEvent rest)).trans (Nat.zero_add _), dispatch_pins (s.beginEvent rest)⟩

/-- The decoder's rejections are about messages, never about the selector. -/
theorem rejectError_ne_unreachableReadState (r : Reject) (code : Nat) : rejectError r ≠ .unreachableReadState code := by
  cases r <;> simp [rejectError]

/-- A code past the eight sources has none (42_read_dispatch.md R174). -/
theorem dispatchCode_unreachable {code : Nat} (h : 8 ≤ code) (s : State) :
    dispatchCode code s = s.raise (.unreachableReadState code) := by
  obtain ⟨k, rfl⟩ := Nat.exists_eq_add_of_le' (Nat.le_trans (by decide : 2 ≤ 8) h)
  have hk : ¬ k < 6 := by omega
  simp [dispatchCode, ReadSelector.ofCode, hk]

/-! The obligations -/

/-- Settles O16: the read's own specification. -/
theorem responseLengthIsSetBySelAlone : Obligations.ResponseLengthIsSetBySelAlone := by
  intro s n rest hi
  obtain ⟨t, hstep, hregs, hparams, hinbox, hrx, hdiag, hlength, -⟩ := step_request_spec hi
  exact ⟨t, hstep, hregs, hparams, hinbox, hrx, hdiag, hlength⟩

/-- Settles O17: no source has such a code, and the errors an event can record are those of the decoder. -/
theorem unreachableSelectorWritesNothing : Obligations.UnreachableSelectorWritesNothing := by
  refine ⟨fun code s h => dispatchCode_unreachable h s, fun code s t hs h hmem => ?_⟩
  obtain ⟨r, hr⟩ := error_mem_of_step hs h hmem
  exact rejectError_ne_unreachableReadState r code hr.symm

/-- Settles O18: the fill makes up for what the response lacks, and building the response draws no fill byte. -/
theorem masterReceivesResponseThenFill : Obligations.MasterReceivesResponseThenFill := by
  intro s n rest hi
  obtain ⟨-, -, -, -, -, hfill⟩ := dispatch_frame (s.beginEvent rest)
  have hlength := fillBytes_length (n - (dispatch (s.beginEvent rest)).response.length)
    (dispatch (s.beginEvent rest)).oracle
  refine ⟨_, _, step_request hi, ?total, rfl, hlength, fun henough => ?linedUp⟩
  case total =>
    simp only [State.masterReads_masterRx, List.length_append, List.length_take, hlength]
    omega
  case linedUp =>
    rw [hlength] at henough ⊢
    rw [Oracle.fillBytes_eq_take _ _ (by rw [hfill]; exact henough), hfill]
    rfl

/-- Settles O19: the pins and the length are set by the registers, which the first read leaves as they are. -/
theorem eachReadSamplesAgain : Obligations.EachReadSamplesAgain := by
  intro s n m rest hi
  obtain ⟨t, hstep, hregs, -, hinbox, -, -, hlength, hpins⟩ := step_request_spec hi
  obtain ⟨u, hstep', hregs', -, -, -, -, hlength', hpins'⟩ := step_request_spec hinbox
  have hsel : t.sel = s.sel := congrArg Regs.sel hregs
  refine ⟨t, u, hstep, hstep', ?_, ?_, hregs'.trans hregs⟩
  · rw [hpins', hpins, hregs]
  · rw [hlength', hlength, hsel]

end Sys2Proof.Machine
end

section
/-! Proofs about the receive event (41_decoder.md R130 to R149; 60_exceptions.md R202 to R209): the step of a message
that is a command and of one that is rejected, the calls a command makes, and what an event leaves for the next. -/

namespace Sys2Proof.Machine

/-! The step of each kind of message -/

/-- A command is at most 2 bytes long, so it is delivered, runs, and its unconsumed bytes are discarded. -/
theorem step_command {s : State} {m u : List Byte} {i : Instr} {rest : List Event} (hi : s.inbox = .receive m :: rest)
    (hd : decode m = .command i u) :
    ∃ x, exec i ((s.beginEvent rest).withRx u) = .next x ∧ step s = .next x.endReceive := by
  obtain ⟨-, hlen⟩ := (decode_eq_command_iff m u i).1 hd
  obtain ⟨x, hx⟩ := exec_completes i ((s.beginEvent rest).withRx u)
  exact ⟨x, hx, by rw [step_receive hi (short_le_capacity hlen _), handleReceive_command hd hx]⟩

/-- A message of bad length is drained and echoed before its error (41_decoder.md R131, D21). -/
theorem step_badLength {s : State} {m : List Byte} {rest : List Event} (hi : s.inbox = .receive m :: rest)
    (hm : m.length ≤ s.params.rxCapacity) (hd : decode m = .rejected (.invalidMessageLength m.length) []) :
    step s = .next { s with
      inbox := rest, rx := [], pinTrace := [], response := [], masterRx := []
      diagTrace := m.map DiagEvent.echo ++ [.error (.invalidMessageLength m.length)] } := by
  rw [step_receive hi hm, handleReceive_rejected hd]
  rfl

/-- An argument opcode alone records its one error (41_decoder.md R133). -/
theorem step_truncated {s : State} {op : Byte} {rest : List Event} (hi : s.inbox = .receive [op] :: rest)
    (hop : op ∈ argumentOpcodes) :
    step s = .next { s with
      inbox := rest, rx := [], pinTrace := [], response := [], masterRx := []
      diagTrace := [.error (.truncatedArgument op)] } := by
  have hd : decode [op] = .rejected (.truncatedArgument op) [] :=
    decodeOpcode_truncated ((requiresArg_iff_mem op).2 hop)
  rw [step_receive hi (short_le_capacity (by simp) _), handleReceive_rejected hd]
  rfl

/-- A select command writes SEL and drops what follows its opcode (41_decoder.md R134, R137 to R147). -/
theorem step_select {op : Byte} (hop : op ∈ selectOpcodes) :
    ∃ source, ∀ (s : State) (tail : List Byte) (rest : List Event), tail.length ≤ 1 →
      s.inbox = .receive (op :: tail) :: rest → step s = .next ((s.beginEvent rest).select source).endReceive := by
  obtain ⟨i, hi⟩ := exists_selectCommand? hop
  obtain ⟨source, hsource⟩ : ∃ source, ∀ s, exec i s = .next (s.select source) := by
    have hnoArg : argBytesOf i = [] := (List.cons.inj (encode_of_selectCommand? hi)).2
    rcases exec_cases i with ⟨_, rfl, -⟩ | ⟨_, rfl, -⟩ | ⟨_, rfl, -⟩ | ⟨_, rfl, -⟩ | ⟨source, -, h⟩
    · exact nomatch hnoArg
    · exact nomatch hnoArg
    · exact nomatch hnoArg
    · exact nomatch hnoArg
    · exact ⟨source, h⟩
  refine ⟨source, fun s tail rest htail hinbox => ?_⟩
  have hd : decode (op :: tail) = .command i tail := by rw [decode_cons op htail, decodeOpcode_select hi]
  obtain ⟨x, hx, hstep⟩ := step_command hinbox hd
  rw [hsource] at hx
  rw [hstep, ← Host.Outcome.next.inj hx]
  rfl

/-! The calls of a command -/

/-- A scanned position is one of the bank's own, or one of the four after Bank B's in a scan of 8 (D4, D5). -/
theorem scan_cases {bank : Byte} (hbank : bank = 0#8 ∨ bank = 1#8) {w : ScanWidth} {i : Nat}
    (hi : i < if bank = 0#8 then 8 else w.bits) :
    i < width bank ∨ bank = 1#8 ∧ w = .eight ∧ 14 ≤ digitalPin bank i ∧ digitalPin bank i ≤ 17 := by
  rcases hbank with rfl | rfl
  · exact .inl hi
  · by_cases h4 : i < 4
    · exact .inl h4
    · cases w with
      | four => exact absurd hi h4
      | eight =>
        have h8 : i < 8 := hi
        rw [digitalPin_bankB]
        exact .inr ⟨rfl, rfl, by omega, by omega⟩

/-- `configure` calls pins of its bank, and past Bank B's width only to make outputs (20_memory.md R51). -/
theorem configureCalls_mapped {bank : Byte} (hbank : bank = 0#8 ∨ bank = 1#8) (mask : Byte) (p : Params) {c : PinCall}
    (hc : c ∈ configureCalls bank (reduceMask bank mask) (configureScan p bank)) :
    c.isOutward = true ∧ c.mapped p = true := by
  obtain ⟨i, hi, rfl⟩ := mem_configureCalls.1 hc
  refine ⟨rfl, ?_⟩
  rcases scan_cases hbank hi with hlow | ⟨rfl, hp, h14, h17⟩
  · simp [PinCall.mapped, digitalPin_range hbank hlow]
  · have h4 : 4 ≤ i := by rw [digitalPin_bankB] at h14; omega
    simp [PinCall.mapped, hp, configureMode_bankB_high mask h4, h14, h17, -digitalPin_bankB]

/-- `write_output` drives pins of its bank, and with `WR_SCAN_B = 8` the four after Bank B's (20_memory.md R51). -/
theorem writeCalls_mapped {bank : Byte} (hbank : bank = 0#8 ∨ bank = 1#8) (d data : Byte) (p : Params) {c : PinCall}
    (hc : c ∈ writeCalls bank d data (writeScan p bank)) : c.isOutward = true ∧ c.mapped p = true := by
  obtain ⟨i, hi, -, rfl⟩ := mem_writeCalls.1 hc
  refine ⟨rfl, ?_⟩
  rcases scan_cases hbank hi with hlow | ⟨-, hp, h14, h17⟩
  · simp [PinCall.mapped, digitalPin_range hbank hlow]
  · simp [PinCall.mapped, hp, h14, h17]

/-- The calls of an instruction set modes and drive pins, on mapped pins; none reads. -/
theorem exec_calls {i : Instr} {s t : State} (h : exec i s = .next t) :
    ∃ calls, t.pinTrace = s.pinTrace ++ calls ∧ ∀ c ∈ calls, c.isOutward = true ∧ c.mapped s.params = true := by
  rcases exec_cases i with ⟨_, -, e⟩ | ⟨_, -, e⟩ | ⟨_, -, e⟩ | ⟨_, -, e⟩ | ⟨_, -, e⟩
  all_goals rw [e] at h; injection h with h; subst h
  · exact ⟨_, configure_pinTrace (.inl rfl) _ s, fun c => configureCalls_mapped (.inl rfl) _ _⟩
  · exact ⟨_, configure_pinTrace (.inr rfl) _ s, fun c => configureCalls_mapped (.inr rfl) _ _⟩
  · exact ⟨_, writeOutput_pinTrace (.inl rfl) _ s, fun c => writeCalls_mapped (.inl rfl) _ _ _⟩
  · exact ⟨_, writeOutput_pinTrace (.inr rfl) _ s, fun c => writeCalls_mapped (.inr rfl) _ _ _⟩
  · exact ⟨[], by simp, nofun⟩

/-! Errors -/

/-- Taking an error leaves the registers, the calls, the response, the waiting events and the parameters as they are
(60_exceptions.md R206). -/
theorem rejectMessage_frame (r : Reject) (s : State) :
    (rejectMessage r s).regs = s.regs ∧ (rejectMessage r s).pinTrace = s.pinTrace ∧
    (rejectMessage r s).response = s.response ∧ (rejectMessage r s).inbox = s.inbox ∧
    (rejectMessage r s).params = s.params := by
  cases r <;> exact ⟨rfl, rfl, rfl, rfl, rfl⟩

/-! The precedence table's rows -/

theorem errorsOf_badLength {m : List Byte} (h1 : m.length ≠ 1) (h2 : m.length ≠ 2) :
    errorsOf m = [.error (.invalidMessageLength m.length)] := by
  rw [errorsOf, if_pos ⟨h1, h2⟩]

/-- The table for a message of length 1 or 2: the opcode first, then the argument. -/
theorem errorsOf_cons {op : Byte} {tail : List Byte} (htail : tail.length ≤ 1) :
    errorsOf (op :: tail) =
      if illegalOpcode op then [.error (.unknownOpcode op)]
      else if tail = [] ∧ op ∈ argumentOpcodes then [.error (.truncatedArgument op)]
      else [] := by
  have hlen : ¬ ((op :: tail).length ≠ 1 ∧ (op :: tail).length ≠ 2) := by
    rw [List.length_cons]
    omega
  rw [errorsOf, if_neg hlen]
  simp

theorem errorsOf_illegal {op : Byte} {tail : List Byte} (htail : tail.length ≤ 1) (hop : illegalOpcode op = true) :
    errorsOf (op :: tail) = [.error (.unknownOpcode op)] := by
  rw [errorsOf_cons htail, if_pos hop]

theorem errorsOf_truncated {op : Byte} (hop : op ∈ argumentOpcodes) :
    errorsOf [op] = [.error (.truncatedArgument op)] := by
  have hlegal := (illegalOpcode_eq_false_iff op).2 (.inl hop)
  simp [errorsOf_cons, hlegal, hop]

/-- No select opcode takes an argument (30_encoding.md R78). -/
theorem not_mem_argumentOpcodes_of_select {op : Byte} (h : op ∈ selectOpcodes) : op ∉ argumentOpcodes := by
  revert op
  decide

/-- A command's message is in no row of the table. -/
theorem errorsOf_command {m u : List Byte} {i : Instr} (hd : decode m = .command i u) : errorsOf m = [] := by
  obtain ⟨rfl, hlen⟩ := (decode_eq_command_iff m u i).1 hd
  rcases encode_cases i with ⟨op, arg, he, harg⟩ | ⟨op, he, hsel⟩
  · obtain rfl : u = [] := by simpa [he] using hlen
    have hlegal := (illegalOpcode_eq_false_iff op).2 (.inl (mem_argumentOpcodes_of_argCommand? harg))
    simp [he, errorsOf_cons, hlegal]
  · have hmem := mem_selectOpcodes_of_selectCommand? hsel
    have hlegal := (illegalOpcode_eq_false_iff op).2 (.inr hmem)
    have htail : u.length ≤ 1 := by simpa [he] using hlen
    simp [he, errorsOf_cons htail, hlegal, not_mem_argumentOpcodes_of_select hmem]

/-- Echoes are no errors. -/
theorem filter_isError_echoes (m : List Byte) : (m.map DiagEvent.echo).filter DiagEvent.isError = [] := by
  simp [List.filter_eq_nil_iff, DiagEvent.isError]

/-- A command records no error. -/
theorem exec_records_no_error {i : Instr} {s t : State} (h : exec i s = .next t) (hs : s.diagTrace = []) :
    t.diagTrace.filter DiagEvent.isError = [] := by
  obtain ⟨-, -, -, -, -, -, herrors⟩ := exec_frame h
  rw [herrors, hs]
  rfl

/-! What the next event finds -/

/-- A receive event overwrites the bytes pending before it. -/
theorem handleEvent_receive_withRx (m b : List Byte) (s : State) :
    handleEvent (.receive m) (s.withRx b) = handleEvent (.receive m) s := rfl

/-- An OUT message drives its bank (41_decoder.md R140, R141). -/
theorem handleReceive_out {op : Byte} (hop : op = 0x14#8 ∨ op = 0x15#8) :
    ∃ bank, ∀ (d : Byte) (s : State),
      handleReceive [op, d] s = .next (writeOutput bank d (s.withRx [])).endReceive := by
  rcases hop with rfl | rfl
  · exact ⟨0#8, fun _ _ => rfl⟩
  · exact ⟨1#8, fun _ _ => rfl⟩

/-- A CFG message configures its bank (41_decoder.md R135, R136). -/
theorem handleReceive_cfg {op : Byte} (hop : op = 0x00#8 ∨ op = 0x01#8) :
    ∃ bank, (bank = 0#8 ∨ bank = 1#8) ∧ ∀ (mask : Byte) (s : State),
      handleReceive [op, mask] s = .next (configure bank mask (s.withRx [])).endReceive := by
  rcases hop with rfl | rfl
  · exact ⟨0#8, .inl rfl, fun _ _ => rfl⟩
  · exact ⟨1#8, .inr rfl, fun _ _ => rfl⟩

/-- What an OUT leaves for the event after it does not hold its data: it wrote only the record of its own event. -/
theorem beginEvent_writeOutput (bank d : Byte) (s : State) (rest : List Event) :
    (writeOutput bank d s).beginEvent rest = s.beginEvent rest := by
  unfold writeOutput
  split <;> rfl

/-- An OUT and then a CFG: the CFG starts from a state that does not depend on the OUT's data. -/
theorem run_out_cfg {op cfg bank bank' : Byte}
    (hout : ∀ (d : Byte) (s : State), handleReceive [op, d] s = .next (writeOutput bank d (s.withRx [])).endReceive)
    (hcfg : ∀ (mask : Byte) (s : State),
      handleReceive [cfg, mask] s = .next (configure bank' mask (s.withRx [])).endReceive)
    (s : State) (mask : Byte) (rest : List Event) (d : Byte) :
    Host.Core.run Sys2Proof.core 2 { s with inbox := .receive [op, d] :: .receive [cfg, mask] :: rest } =
      .next (configure bank' mask (s.endReceive.beginEvent rest)).endReceive := by
  have hfirst : step { s with inbox := .receive [op, d] :: .receive [cfg, mask] :: rest } =
      .next (writeOutput bank d ((s.beginEvent (.receive [cfg, mask] :: rest)).withRx [])).endReceive := by
    rw [step_receive (m := [op, d]) rfl (short_le_capacity (by simp) _), hout]
    rfl
  have hsecond : step (writeOutput bank d ((s.beginEvent (.receive [cfg, mask] :: rest)).withRx [])).endReceive =
      .next (configure bank' mask (s.endReceive.beginEvent rest)).endReceive := by
    rw [step_receive (m := [cfg, mask]) (rest := rest) (by simp) (short_le_capacity (by simp) _), hcfg]
    have hbegin := beginEvent_writeOutput bank d ((s.beginEvent (.receive [cfg, mask] :: rest)).withRx []) rest
    change Host.Outcome.next (configure bank' mask (((writeOutput bank d _).beginEvent rest).withRx [])).endReceive = _
    rw [hbegin]
    rfl
  rw [run_step hfirst, run_step hsecond, run_zero]

/-! The obligations -/

/-- Settles O20: a message that decodes to a command is delivered and runs it. -/
theorem stepRunsTheDecodedInstruction : Obligations.StepRunsTheDecodedInstruction :=
  fun _ _ _ _ _ hi hd => step_command hi hd

/-- Settles O38: the row's message stands first, and it decodes to the row's instruction. -/
theorem aFetchedTableWordRuns : Obligations.AFetchedTableWordRuns := by
  intro s nbits w i h
  unfold decodeTableWord at h
  split at h
  case h_1 j u hd =>
    cases h
    exact ⟨u, step_command (s := s.withFetchWord nbits w) (rest := s.inbox) rfl hd⟩
  case h_2 => exact nomatch h

/-- Settles O21: the bad length is the first thing the decoder finds. -/
theorem badLengthIsDrainedAndRejected : Obligations.BadLengthIsDrainedAndRejected := by
  intro s m rest hi h1 h2 hm
  rcases decode_cases m with ⟨op, tail, rfl, htail, -⟩ | ⟨-, -, hd⟩
  · rw [List.length_cons] at h1 h2
    omega
  · exact step_badLength hi hm hd

/-- Settles O23: of the four kinds of message only an argument opcode alone is rejected as truncated. -/
theorem missingArgumentIsReported : Obligations.MissingArgumentIsReported := by
  refine ⟨fun s op rest hop hi => step_truncated hi hop, fun m tail op => ⟨fun h => ?only, ?conversely⟩⟩
  case only =>
    rcases message_cases m with ⟨-, -, hd⟩ | ⟨_, _, -, -, -, hd⟩ | ⟨op', hm, hop, hd⟩ | ⟨_, _, -, -, hd⟩
    · simp [hd] at h
    · simp [hd] at h
    · obtain ⟨rfl, rfl⟩ : op' = op ∧ [] = tail := by simpa [hd] using h
      exact ⟨hm, hop, rfl⟩
    · simp [hd] at h
  case conversely =>
    rintro ⟨rfl, hop, rfl⟩
    exact decodeOpcode_truncated ((requiresArg_iff_mem op).2 hop)

/-- Settles O24: the step of a select message is the write of SEL, whatever follows the opcode. -/
theorem byteAfterSelectIsDiscarded : Obligations.ByteAfterSelectIsDiscarded := by
  intro s op x rest hop
  obtain ⟨source, hstep⟩ := step_select hop
  exact ⟨_, hstep { s with inbox := .receive [op, x] :: rest } [x] rest (Nat.le_refl 1) rfl,
    hstep { s with inbox := .receive [op] :: rest } [] rest (Nat.zero_le 1) rfl, rfl, rfl⟩

/-- Settles O25: each kind of message is one row of the table. -/
theorem errorsFollowThePrecedenceTable : Obligations.ErrorsFollowThePrecedenceTable := by
  intro s m rest hi hm
  rcases message_cases m with ⟨h1, h2, hd⟩ | ⟨op, tail, rfl, htail, hop, hd⟩ | ⟨op, rfl, hop, hd⟩ | ⟨i, u, -, -, hd⟩
  · refine ⟨_, step_badLength hi hm hd, ?_⟩
    rw [errorsOf_badLength h1 h2, List.filter_append, filter_isError_echoes]
    rfl
  · exact ⟨_, step_unknownOpcode hi (Nat.succ_le_succ htail) hd, (errorsOf_illegal htail hop).symm⟩
  · exact ⟨_, step_truncated hi hop, (errorsOf_truncated hop).symm⟩
  · obtain ⟨x, hx, hstep⟩ := step_command hi hd
    exact ⟨_, hstep, (exec_records_no_error hx rfl).trans (errorsOf_command hd).symm⟩

/-- Settles O26: of the events only a rejected message records an error, and rejecting it does nothing else. -/
theorem anErrorChangesNoRegisterAndCallsNoPin : Obligations.AnErrorChangesNoRegisterAndCallsNoPin := by
  intro s t hs h herror
  rcases step_cases h with ⟨hi, -⟩ | ⟨m, rest, i, u, x, -, -, -, hx, rfl⟩ | ⟨m, rest, r, u, -, -, -, rfl⟩ |
    ⟨n, rest, -, rfl⟩ | ⟨a, b, rest, -, rfl⟩
  · exact absurd hi hs
  · obtain ⟨ev, hmem, hev⟩ := List.any_eq_true.1 herror
    have hnone := exec_records_no_error hx rfl
    exact absurd (List.mem_filter.2 ⟨hmem, hev⟩) (by simp [hnone])
  · obtain ⟨hregs, hpins, hresponse, -, -⟩ := rejectMessage_frame r ((s.beginEvent rest).withRx m)
    exact ⟨hregs, hpins, hresponse⟩
  · simp at herror
  · simp at herror

/-- Settles O27: a command makes the calls of `configure` or `write_output`, a rejected message none. -/
theorem receiveEventsNeverReadAPin : Obligations.ReceiveEventsNeverReadAPin := by
  intro s m rest hi hm
  rcases message_cases m with ⟨h1, h2, hd⟩ | ⟨op, tail, rfl, htail, hop, hd⟩ | ⟨op, rfl, hop, hd⟩ | ⟨i, u, -, -, hd⟩
  · exact ⟨_, step_badLength hi hm hd, rfl, rfl, rfl, rfl, rfl⟩
  · exact ⟨_, step_unknownOpcode hi (Nat.succ_le_succ htail) hd, rfl, rfl, rfl, rfl, rfl⟩
  · exact ⟨_, step_truncated hi hop, rfl, rfl, rfl, rfl, rfl⟩
  · obtain ⟨x, hx, hstep⟩ := step_command hi hd
    obtain ⟨-, hresponse, hmaster, hinbox, horacle, -⟩ := exec_frame hx
    obtain ⟨calls, hcalls, houtward⟩ := exec_calls hx
    refine ⟨_, hstep, horacle, List.all_eq_true.2 fun c hc => ?_, hresponse, hmaster, hinbox⟩
    have hmem : c ∈ calls := by simpa [hcalls] using hc
    exact (houtward c hmem).1

/-- Settles O28: after the truncated message only its record and the empty message buffer differ, and the next message
replaces both. -/
theorem aSplitCommandIsTwoMessages : Obligations.ASplitCommandIsTwoMessages := by
  intro s op m rest hop hi
  refine ⟨_, step_truncated hi hop, rfl, ?_⟩
  rw [step_event (e := .receive m) (rest := rest) rfl, step_event (e := .receive m) (rest := rest) rfl]
  exact handleEvent_receive_withRx m [] (s.beginEvent rest)

/-- Settles O29: the CFG starts from a state that does not hold the OUT's data, and its calls only set modes. -/
theorem outDataIsForgotten : Obligations.OutDataIsForgotten := by
  intro s op cfg mask d d' rest hop hcfg
  obtain ⟨bank, hout⟩ := handleReceive_out hop
  obtain ⟨bank', hbank', hconfigure⟩ := handleReceive_cfg hcfg
  have hrun := run_out_cfg hout hconfigure s mask rest
  refine ⟨_, hrun d, hrun d', fun p v hmem => ?_⟩
  rw [State.endReceive_pinTrace, configure_pinTrace hbank'] at hmem
  obtain ⟨i, -, hcall⟩ := mem_configureCalls.1 (by simpa using hmem)
  exact nomatch hcall

end Sys2Proof.Machine
end

section
/-! Proofs about the registers along a run (10_state.md R20, R34; 70_reset_and_hazards.md R234): every completed step
has the register effect of the table, and every deliverable event completes. -/

namespace Sys2Proof.Machine

/-! The register table -/

/-- The low 4 bits of a byte as a number. -/
theorem extractLsb'_low_eq_ofNat (m : Byte) : m.extractLsb' 0 4 = BitVec.ofNat 4 (m.toNat % 16) := by
  refine BitVec.eq_of_toNat_eq ?_
  simp [BitVec.extractLsb'_toNat]

theorem Regs.after_receive_cons (r : Regs) (op : Byte) {tail : List Byte} (h : tail.length ≤ 1) :
    r.after (.receive (op :: tail)) = r.afterMessage op tail.head? := by
  match tail with
  | [] => rfl
  | [_] => rfl
  | _ :: _ :: _ => simp at h

theorem Regs.after_receive_badLength (r : Regs) {m : List Byte} (h1 : m.length ≠ 1) (h2 : m.length ≠ 2) :
    r.after (.receive m) = r := by
  match m with
  | [] => rfl
  | [_] => exact absurd rfl h1
  | [_, _] => exact absurd rfl h2
  | _ :: _ :: _ :: _ => rfl

/-- The table has no row for an illegal byte. -/
theorem Regs.afterMessage_illegal (r : Regs) {op : Byte} (h : illegalOpcode op = true) (arg : Option Byte) :
    r.afterMessage op arg = r := by
  have hmem : ¬ (op ∈ argumentOpcodes ∨ op ∈ selectOpcodes) := by simp [← illegalOpcode_eq_false_iff, h]
  simp only [argumentOpcodes, selectOpcodes, List.mem_cons, List.not_mem_nil, or_false, not_or] at hmem
  simp [Regs.afterMessage, hmem]

/-- An argument opcode alone writes nothing (30_encoding.md R78). -/
theorem Regs.afterMessage_truncated (r : Regs) {op : Byte} (h : op ∈ argumentOpcodes) : r.afterMessage op none = r := by
  fin_cases h <;> rfl

/-- DIR_A has one writer (10_state.md R34). -/
theorem Regs.afterMessage_dirA (r : Regs) {op : Byte} (h : op ≠ 0x00#8) (arg : Option Byte) :
    (r.afterMessage op arg).dirA = r.dirA := by
  cases arg <;> simp [Regs.afterMessage, h, apply_ite Regs.dirA]

/-- DIR_B has one writer (10_state.md R34). -/
theorem Regs.afterMessage_dirB (r : Regs) {op : Byte} (h : op ≠ 0x01#8) (arg : Option Byte) :
    (r.afterMessage op arg).dirB = r.dirB := by
  simp [Regs.afterMessage, h, apply_ite Regs.dirB]

/-- A byte that is no select opcode selects nothing. -/
theorem selectedCode_of_not_mem {op : Byte} (h : op ∉ selectOpcodes) (tail : List Byte) :
    selectedCode (.receive (op :: tail)) = none := by
  simp only [selectOpcodes, List.mem_cons, List.not_mem_nil, or_false, not_or, ← beq_eq_false_iff_ne] at h
  simp [selectedCode, List.lookup, h]

/-- SEL after a message of length 1 or 2: the code it selects, if it selects one (10_state.md R27). -/
theorem Regs.afterMessage_sel (r : Regs) (op : Byte) {tail : List Byte} (h : tail.length ≤ 1) :
    (r.afterMessage op tail.head?).sel = (selectedCode (.receive (op :: tail))).getD r.sel := by
  by_cases hop : op ∈ selectOpcodes
  · simp only [selectedCode, if_pos h]
    fin_cases hop <;> rfl
  · rw [selectedCode_of_not_mem hop]
    simp only [selectOpcodes, List.mem_cons, List.not_mem_nil, or_false, not_or] at hop
    simp only [Regs.afterMessage, hop, if_false]
    split_ifs
    · rfl
    · cases tail <;> rfl
    · rfl

/-- SEL after an event that is no power cycle: the code it selects, if it selects one. -/
theorem Regs.after_sel (r : Regs) {e : Event} (h : e.isPowerCycle = false) :
    (r.after e).sel = (selectedCode e).getD r.sel := by
  match e with
  | .receive [] => rfl
  | .receive [op] => exact r.afterMessage_sel op (tail := []) (Nat.zero_le 1)
  | .receive [op, x] => exact r.afterMessage_sel op (tail := [x]) (Nat.le_refl 1)
  | .receive (_ :: _ :: _ :: _) => simp [Regs.after, selectedCode]
  | .request _ => rfl
  | .powerCycle _ _ => exact nomatch h

/-- A field that only one opcode writes, and only with an argument, changes only at that opcode's 2-byte message. -/
theorem Regs.event_of_field_ne {α : Type} (field : Regs → α) {writer : Byte}
    (hother : ∀ (r : Regs) {op : Byte}, op ≠ writer → ∀ arg, field (r.afterMessage op arg) = field r)
    (halone : ∀ r : Regs, field (r.afterMessage writer none) = field r) {r : Regs} {e : Event}
    (hp : e.isPowerCycle = false) (h : field (r.after e) ≠ field r) : ∃ m, e = .receive [writer, m] := by
  match e with
  | .receive [op, m] =>
    by_cases hop : op = writer
    · exact ⟨m, by rw [hop]⟩
    · exact absurd (hother r hop (some m)) h
  | .receive [op] =>
    by_cases hop : op = writer
    · subst hop
      exact absurd (halone r) h
    · exact absurd (hother r hop none) h
  | .receive [] | .receive (_ :: _ :: _ :: _) | .request _ => exact absurd rfl h
  | .powerCycle _ _ => exact nomatch hp

/-- In the table only a select opcode with at most one byte after it changes SEL (10_state.md R34). -/
theorem Regs.event_of_sel_ne {r : Regs} {e : Event} (hp : e.isPowerCycle = false) (h : (r.after e).sel ≠ r.sel) :
    ∃ op tail, op ∈ selectOpcodes ∧ tail.length ≤ 1 ∧ e = .receive (op :: tail) := by
  rw [r.after_sel hp] at h
  match e with
  | .receive (op :: tail) =>
    refine ⟨op, tail, by_contra fun hop => h ?_, by_contra fun hlen => h ?_, rfl⟩
    · rw [selectedCode_of_not_mem hop]
      rfl
    · rw [selectedCode, if_neg hlen]
      rfl
  | .receive [] | .request _ => exact absurd rfl h
  | .powerCycle _ _ => exact nomatch hp

/-! The table and the machine -/

/-- What an instruction writes is the table's row for its encoding, whatever follows it. -/
theorem exec_regs {i : Instr} {s t : State} (h : exec i s = .next t) (u : List Byte) :
    t.regs = s.regs.afterMessage (opcodeOf i) (argBytesOf i ++ u).head? := by
  cases i with
  | cfgB arg =>
    cases h
    have hlow := (extractLsb'_reduceMask_bankB arg).trans (extractLsb'_low_eq_ofNat arg)
    exact congrArg (fun b : BitVec 4 => { dirA := s.dirA, dirB := b, sel := s.sel : Regs }) hlow
  | cfgA | outA | outB | selDA | selDB | selAN0 | selAN1 | selAN2 | selAN3 | selAN4 | selAN5 => cases h; rfl

/-- The table's row of a command's message. -/
theorem Regs.after_command (r : Regs) {m u : List Byte} {i : Instr} (hd : decode m = .command i u) :
    r.after (.receive m) = r.afterMessage (opcodeOf i) (argBytesOf i ++ u).head? := by
  obtain ⟨rfl, hlen⟩ := (decode_eq_command_iff m u i).1 hd
  exact r.after_receive_cons (opcodeOf i) (Nat.le_of_succ_le_succ hlen)

/-- A rejected message has no row. -/
theorem Regs.after_rejected (r : Regs) {m u : List Byte} {reason : Reject} (hd : decode m = .rejected reason u) :
    r.after (.receive m) = r := by
  rcases message_cases m with ⟨h1, h2, -⟩ | ⟨op, tail, rfl, htail, hop, -⟩ | ⟨op, rfl, hop, -⟩ | ⟨i, u, -, -, hc⟩
  · exact r.after_receive_badLength h1 h2
  · rw [r.after_receive_cons op htail, r.afterMessage_illegal hop]
  · exact r.afterMessage_truncated hop
  · simp [hc] at hd

/-- The step of an event has the event's register effect, takes it off the inbox and leaves the parameters. -/
theorem step_regs {s t : State} {e : Event} {rest : List Event} (h : step s = .next t) (hi : s.inbox = e :: rest) :
    t.regs = s.regs.after e ∧ t.inbox = rest ∧ t.params = s.params := by
  rcases step_cases h with ⟨he, -⟩ | ⟨m, rest', i, u, x, he, -, hd, hx, rfl⟩ | ⟨m, rest', reason, u, he, -, hd, rfl⟩ |
    ⟨n, rest', he, rfl⟩ | ⟨a, b, rest', he, rfl⟩
  all_goals rw [hi] at he
  · exact nomatch he
  all_goals obtain ⟨rfl, rfl⟩ := List.cons.inj he
  · obtain ⟨-, -, -, hinbox, -, hparams, -⟩ := exec_frame hx
    exact ⟨(exec_regs hx u).trans (s.regs.after_command hd).symm, hinbox, hparams⟩
  · obtain ⟨hregs, -, -, hinbox, hparams⟩ := rejectMessage_frame reason ((s.beginEvent rest).withRx m)
    exact ⟨hregs.trans (s.regs.after_rejected hd).symm, hinbox, hparams⟩
  · obtain ⟨hregs, -, -, hinbox, hparams, -⟩ := dispatch_frame (s.beginEvent rest)
    exact ⟨hregs, hinbox, hparams⟩
  · exact ⟨rfl, rfl, rfl⟩

/-- The step of a deliverable event completes. -/
theorem step_completes {s : State} {e : Event} {rest : List Event} (hi : s.inbox = e :: rest)
    (he : e.deliverable s.params = true) : ∃ t, step s = .next t := by
  cases e with
  | receive m =>
    have hm : m.length ≤ s.params.rxCapacity := by simpa [Event.deliverable] using he
    rw [step_receive hi hm]
    match hd : decode m with
    | .command i u =>
      obtain ⟨x, hx⟩ := exec_completes i ((s.beginEvent rest).withRx u)
      exact ⟨_, handleReceive_command hd hx⟩
    | .rejected r u => exact ⟨_, handleReceive_rejected hd _⟩
  | request n => exact ⟨_, step_request hi⟩
  | powerCycle a b => exact ⟨_, step_powerCycle hi⟩

/-! Runs -/

/-- A run of deliverable events completes with the table folded over them. -/
theorem run_regs (k : Nat) (s : State) (hs : s.inbox.all (Event.deliverable s.params) = true) :
    ∃ t, Host.Core.run Sys2Proof.core k s = .next t ∧ t.regs = (s.inbox.take k).foldl Regs.after s.regs ∧
      t.inbox = s.inbox.drop k ∧ t.params = s.params := by
  induction k generalizing s with
  | zero => exact ⟨s, run_zero s, rfl, rfl, rfl⟩
  | succ k ih =>
    match hi : s.inbox with
    | [] =>
      obtain ⟨t, hrun, hregs, hinbox, hparams⟩ := ih s hs
      rw [hi, List.take_nil] at hregs
      rw [hi, List.drop_nil] at hinbox
      exact ⟨t, by rw [run_step (step_idle hi), hrun], hregs, hinbox, hparams⟩
    | e :: rest =>
      rw [hi, List.all_cons, Bool.and_eq_true] at hs
      obtain ⟨he, hrest⟩ := hs
      obtain ⟨u, hstep⟩ := step_completes hi he
      obtain ⟨hregs, hinbox, hparams⟩ := step_regs hstep hi
      rw [← hinbox, ← hparams] at hrest
      obtain ⟨t, hrun, hregs', hinbox', hparams'⟩ := ih u hrest
      rw [hinbox, hregs] at hregs'
      rw [hinbox] at hinbox'
      exact ⟨t, by rw [run_step hstep, hrun], hregs', hinbox', hparams'.trans hparams⟩

/-- SEL after events without a power cycle is the last code they select. -/
theorem foldl_after_sel (events : List Event) (h : events.any Event.isPowerCycle = false) (r : Regs) :
    (events.foldl Regs.after r).sel = ((events.filterMap selectedCode).getLast?).getD r.sel := by
  induction events generalizing r with
  | nil => rfl
  | cons e events ih =>
    rw [List.any_cons, Bool.or_eq_false_iff] at h
    rw [List.foldl_cons, ih h.2, r.after_sel h.1]
    cases hc : selectedCode e with
    | none => simp [hc]
    | some c => simp [hc, List.getLast?_cons]

/-! The obligations -/

/-- Settles O33, by induction on the number of steps. -/
theorem runsRefineTheRegisterTable : Obligations.RunsRefineTheRegisterTable :=
  run_regs

/-- Settles O34: the run of all the events folds the table over them, and SEL under that fold is the last selected
code. -/
theorem selectorIsTheMostRecentSelect : Obligations.SelectorIsTheMostRecentSelect := by
  intro p a b events hdeliverable hpower
  obtain ⟨t, hrun, hregs, -, -⟩ := run_regs events.length { State.powerOn p a b with inbox := events } hdeliverable
  refine ⟨t, hrun, ?_⟩
  rw [List.take_length] at hregs
  exact (congrArg Regs.sel hregs).trans (foldl_after_sel events hpower _)

/-- Settles O43: the one event that is not deliverable is refused, every other completes. -/
theorem onlyOverlongMessagesStop : Obligations.OnlyOverlongMessagesStop := by
  refine fun s => ⟨fun m rest hi hm => step_overlong hi hm, fun h => ?_⟩
  match hi : s.inbox with
  | [] => exact ⟨s, step_idle hi⟩
  | e :: rest => exact step_completes hi (by simpa [hi] using h)

/-- Settles O30: a step has the register effect of its event, and in the table each register has its own writers. -/
theorem registersChangeOnlyAtTheirCommands : Obligations.RegistersChangeOnlyAtTheirCommands := by
  intro s t h hpower
  match hi : s.inbox with
  | [] =>
    obtain rfl : s = t := by simpa [step_idle hi] using h
    exact ⟨fun hne => absurd rfl hne, fun hne => absurd rfl hne, fun hne => absurd rfl hne⟩
  | e :: rest =>
    have hp : e.isPowerCycle = false := by simpa [hi] using hpower
    obtain ⟨hregs, -, -⟩ := step_regs h hi
    refine ⟨fun hne => ?dirA, fun hne => ?dirB, fun hne => ?sel⟩
    case dirA =>
      have hne' : (s.regs.after e).dirA ≠ s.regs.dirA := hregs ▸ hne
      obtain ⟨m, rfl⟩ := Regs.event_of_field_ne Regs.dirA Regs.afterMessage_dirA (fun _ => rfl) hp hne'
      exact ⟨m, rfl⟩
    case dirB =>
      have hne' : (s.regs.after e).dirB ≠ s.regs.dirB := hregs ▸ hne
      obtain ⟨m, rfl⟩ := Regs.event_of_field_ne Regs.dirB Regs.afterMessage_dirB (fun _ => rfl) hp hne'
      exact ⟨m, rfl⟩
    case sel =>
      have hne' : (s.regs.after e).sel ≠ s.regs.sel := hregs ▸ hne
      obtain ⟨op, tail, hop, htail, rfl⟩ := Regs.event_of_sel_ne hp hne'
      exact ⟨op, tail, hop, htail, rfl⟩

end Sys2Proof.Machine
end

section
/-! Proofs about the record of an event (10_state.md R30, R31; 20_memory.md R51, R52; 60_exceptions.md R206, R209): what
every step leaves behind. -/

namespace Sys2Proof.Machine

/-! The pins a read samples -/

/-- A recorded read of a bank's input-marked pins is on a pin of 2..13 (20_memory.md R51). -/
theorem recorded_read_mapped {bank : Byte} (hbank : bank = 0#8 ∨ bank = 1#8) {d : Byte} {vs : List Bool} (p : Params)
    {c : PinCall} (hc : c ∈ List.zipWith PinCall.digitalRead (inputPins bank d (width bank)) vs) :
    c.mapped p = true := by
  obtain ⟨v, hform⟩ := form_of_recorded_reads hc
  rw [hform] at hc ⊢
  have hpin := pin_mem_of_mem_zipWith hc
  simp only [inputPins, List.mem_map, List.mem_filter, List.mem_reverse, List.mem_range] at hpin
  obtain ⟨i, ⟨hi, -⟩, hpin⟩ := hpin
  obtain ⟨hlow, hhigh⟩ := digitalPin_range hbank hi
  rw [hpin] at hlow hhigh
  simp [PinCall.mapped, hlow, hhigh]

/-- A read of a channel is on one of the six analog pins (20_memory.md R52). -/
theorem analogRead_mapped (k : Fin 6) (v : BitVec 10) (p : Params) :
    (PinCall.analogRead (analogPin k) v).mapped p = true := by
  change [23, 24, 25, 26, 29, 30].contains (analogPin k) = true
  revert k
  decide

/-- Building a response calls mapped pins only. -/
theorem dispatch_mapped {s : State} {p : Params} (hs : s.pinTrace = []) {c : PinCall} (hc : c ∈ (dispatch s).pinTrace) :
    c.mapped p = true := by
  rcases dispatch_cases s with ⟨-, h⟩ | ⟨-, h⟩ | ⟨k, -, h⟩
  · rw [h, respondDigital_valid (by decide), hs] at hc
    exact recorded_read_mapped (.inl rfl) p hc
  · rw [h, respondDigital_valid (by decide), hs] at hc
    exact recorded_read_mapped (.inr rfl) p hc
  · rw [h, respondAnalog_eq, hs] at hc
    rw [List.mem_singleton.1 hc]
    exact analogRead_mapped k _ p

/-! The invariant for each kind of event -/

/-- With no error recorded the clauses about errors hold. -/
theorem recordOk_of_no_error {s : State} (hrx : s.rx = [])
    (hresponse : s.response.length = 0 ∨ s.response.length = 1 ∨ s.response.length = 4)
    (hpins : ∀ c ∈ s.pinTrace, c.mapped s.params = true) (herrors : s.diagTrace.filter DiagEvent.isError = []) :
    s.RecordOk := by
  refine ⟨hrx, hresponse, List.all_eq_true.2 hpins, ?_, fun hany => ?_⟩
  · rw [List.countP_eq_length_filter, herrors]
    exact Nat.zero_le 1
  · obtain ⟨ev, hmem, hev⟩ := List.any_eq_true.1 hany
    exact absurd (List.mem_filter.2 ⟨hmem, hev⟩) (by simp [herrors])

/-- A rejected message records its one error. -/
theorem rejectMessage_errors {r : Reject} {s : State} (hs : s.diagTrace = []) :
    (rejectMessage r s).diagTrace.filter DiagEvent.isError = [.error (rejectError r)] := by
  cases r with
  | invalidMessageLength n =>
    simp only [rejectMessage, State.raise_diagTrace, State.drain_diagTrace, hs, List.nil_append, List.filter_append,
      filter_isError_echoes]
    rfl
  | unknownOpcode op | truncatedArgument op => simp [rejectMessage, hs, DiagEvent.isError]

theorem recordOk_of_rejected (r : Reject) (m : List Byte) (s : State) (rest : List Event) :
    (rejectMessage r ((s.beginEvent rest).withRx m)).endReceive.RecordOk := by
  obtain ⟨-, hpins, hresponse, -, -⟩ := rejectMessage_frame r ((s.beginEvent rest).withRx m)
  have herrors : (rejectMessage r ((s.beginEvent rest).withRx m)).diagTrace.filter DiagEvent.isError = _ :=
    rejectMessage_errors rfl
  refine ⟨rfl, .inl ?_, ?_, ?_, fun _ => ⟨hpins, hresponse⟩⟩
  · rw [State.endReceive_response, hresponse]
    rfl
  · rw [State.endReceive_pinTrace, hpins]
    rfl
  · rw [List.countP_eq_length_filter, State.endReceive_diagTrace, herrors]
    exact Nat.le_refl 1

theorem recordOk_of_command {i : Instr} {u : List Byte} {s x : State} {rest : List Event}
    (hx : exec i ((s.beginEvent rest).withRx u) = .next x) : x.endReceive.RecordOk := by
  obtain ⟨-, hresponse, -, -, -, hparams, -⟩ := exec_frame hx
  obtain ⟨calls, hcalls, hmapped⟩ := exec_calls hx
  have herrors := exec_records_no_error hx rfl
  refine recordOk_of_no_error rfl (.inl ?_) (fun c hc => ?_) herrors
  · rw [State.endReceive_response, hresponse]
    rfl
  · rw [State.endReceive_pinTrace, hcalls] at hc
    rw [State.endReceive_params, hparams]
    exact (hmapped c hc).2

theorem recordOk_of_request {s : State} (hs : s.rx = []) (n : Nat) (rest : List Event) :
    ((dispatch (s.beginEvent rest)).masterReads n).RecordOk := by
  obtain ⟨-, hrx, -⟩ := dispatch_frame (s.beginEvent rest)
  refine recordOk_of_no_error (hrx.trans hs) (.inr ?_) (fun c hc => dispatch_mapped rfl hc) (by simp)
  rw [State.masterReads_response, dispatch_response_length]
  split
  · exact .inl rfl
  · exact .inr rfl

/-! The obligations -/

/-- Settles O31: an idle step keeps the record, every event writes one that meets the invariant. -/
theorem everyStepKeepsTheRecordInvariant : Obligations.EveryStepKeepsTheRecordInvariant := by
  intro s t hs h
  rcases step_cases h with ⟨-, rfl⟩ | ⟨m, rest, i, u, x, -, -, -, hx, rfl⟩ | ⟨m, rest, r, u, -, -, -, rfl⟩ |
    ⟨n, rest, -, rfl⟩ | ⟨a, b, rest, -, rfl⟩
  · exact hs
  · exact recordOk_of_command hx
  · exact recordOk_of_rejected r m s rest
  · obtain ⟨hrx, -⟩ := hs
    exact recordOk_of_request hrx n rest
  · exact recordOk_of_no_error rfl (.inl rfl) nofun rfl

/-- Settles O32: nothing has been recorded at power-on. -/
theorem powerOnMeetsTheRecordInvariant : Obligations.PowerOnMeetsTheRecordInvariant :=
  fun _ _ _ => recordOk_of_no_error rfl (.inl rfl) nofun rfl

end Sys2Proof.Machine
end

section
/-! Proofs about the selector's writers, power-on and the bus (41_decoder.md R137 to R147; 10_state.md R35;
70_reset_and_hazards.md R230; 20_memory.md R54). -/

namespace Sys2Proof.Machine

/-- Settles O5: each command's arm writes the code of its source. -/
theorem selectsCompleteWritingSelOnly : Obligations.SelectsCompleteWritingSelOnly :=
  fun _ => ⟨rfl, rfl, rfl, rfl, rfl, rfl, rfl, rfl⟩

/-- Settles O40: the reset values as `powerOn` lists them, and with an empty inbox the step is idle. -/
theorem powerOnLeavesTheResetValues : Obligations.PowerOnLeavesTheResetValues :=
  fun _ _ _ => ⟨rfl, rfl, rfl, rfl, rfl, rfl, rfl, rfl, step_idle rfl⟩

/-- Settles O41: what the event began is lost with the rest. -/
theorem powerCycleLosesAllRegisters : Obligations.PowerCycleLosesAllRegisters :=
  fun _ _ _ _ hi => step_powerCycle hi

/-- Settles O42: the address filter passes the block's own address. -/
theorem onlyAddress0x40ReachesTheBlock : Obligations.OnlyAddress0x40ReachesTheBlock := by
  intro s addr bytes n
  by_cases haddr : addr = 0x40#7
  · simp [State.submit, deliver?, i2cAddr, haddr]
  · simp [State.submit, deliver?, i2cAddr, haddr]

end Sys2Proof.Machine
end
